-- ==== Sys2Proof/Word.lean ====
section
/-! DEFINITION. Bytes and two-byte words of the links, and Table: a fixed number of like records with its length as a proof. -/

namespace Sys2Proof

/-- One byte of a frame or a plan image. -/
abbrev Byte := BitVec 8

/-- A two-byte argument of a frame, sent high byte first. -/
abbrev Word := BitVec 16

/-- `n` records of one kind, numbered from 0: the ramp table, the channel table and the like. -/
structure Table (α : Type) (n : Nat) where
  cells : List α
  size : cells.length = n
  deriving DecidableEq, Repr

/-- The same record in every place. -/
def Table.fill {α : Type} (n : Nat) (a : α) : Table α n :=
  ⟨List.replicate n a, List.length_replicate⟩

/-- The record at a place. -/
def Table.get {α : Type} {n : Nat} (t : Table α n) (i : Fin n) : α :=
  t.cells[i.val]'(by rw [t.size]; exact i.isLt)

/-- The table with the record at one place replaced. -/
def Table.set {α : Type} {n : Nat} (t : Table α n) (i : Fin n) (a : α) : Table α n :=
  ⟨t.cells.set i.val a, by rw [List.length_set, t.size]⟩

/-- The table with every record rewritten on its own. -/
def Table.map {α β : Type} {n : Nat} (t : Table α n) (f : α → β) : Table β n :=
  ⟨t.cells.map f, by rw [List.length_map, t.size]⟩

/-- The table whose record at each place is given by a function of the place. -/
def Table.build {α : Type} (n : Nat) (f : Fin n → α) : Table α n :=
  ⟨(List.finRange n).map f, by rw [List.length_map, List.length_finRange]⟩

theorem Table.ext {α : Type} {n : Nat} {t u : Table α n} (h : ∀ i, t.get i = u.get i) : t = u := by
  obtain ⟨a, ha⟩ := t
  obtain ⟨b, hb⟩ := u
  have : a = b := by
    apply List.ext_get (by omega)
    intro k h1 h2
    exact h ⟨k, by omega⟩
  subst this
  rfl

@[simp] theorem Table.get_fill {α : Type} {n : Nat} (a : α) (i : Fin n) : (Table.fill n a).get i = a := by
  simp [Table.get, Table.fill]

@[simp] theorem Table.get_set_same {α : Type} {n : Nat} (t : Table α n) (i : Fin n) (a : α) :
    (t.set i a).get i = a := by
  simp [Table.get, Table.set]

theorem Table.get_set_other {α : Type} {n : Nat} (t : Table α n) {i j : Fin n} (a : α) (h : j ≠ i) :
    (t.set i a).get j = t.get j := by
  have hv : i.val ≠ j.val := fun e => h (Fin.ext e.symm)
  simp [Table.get, Table.set, hv]

theorem Table.get_set {α : Type} {n : Nat} (t : Table α n) (i j : Fin n) (a : α) :
    (t.set i a).get j = if j = i then a else t.get j := by
  by_cases h : j = i
  · subst h; simp
  · simp [h, Table.get_set_other]

@[simp] theorem Table.get_map {α β : Type} {n : Nat} (t : Table α n) (f : α → β) (i : Fin n) :
    (t.map f).get i = f (t.get i) := by
  simp [Table.get, Table.map]

@[simp] theorem Table.get_build {α : Type} {n : Nat} (f : Fin n → α) (i : Fin n) :
    (Table.build n f).get i = f i := by
  simp [Table.get, Table.build]

end Sys2Proof
end

