-- ==== Sys2Proof/Config.lean ====
section
/-! DEFINITION. What the manual leaves open as a value: constants with no body, so that no proof can see what they are. -/

namespace Sys2Proof

/-- The cause that the notice of a ramp's transition carries (R39 "the new state and the cause"); the manual lists no values for it. -/
inductive RampCause where
  | commission
  | opened
  | startRedEnded
  | flushEnded
  | close
  | closingEnded
  | retire
  | clearLockout
  | permitLost
  | queueAlarm
  | provingFault
  deriving DecidableEq, Repr

/-- What a DETECTOR notice reports beside an entry to FAILED (R57); the manual lists no values for it. -/
inductive DetectorCause where
  | returned
  | released
  | kindChanged
  deriving DecidableEq, Repr

/-- The cause of a ZONE notice that no evaluation raised (R93); the manual lists no values for it. -/
inductive ZoneCause where
  | defined
  | dissolved
  deriving DecidableEq, Repr

/-- FREE VALUE (log 2): which of the events due at one instant is taken first.
The argument is the counter `State.tieCount`, advanced at each use. -/
opaque Config.tieBreak : Nat → Nat

/-- FREE VALUE (log 9): the byte that a mark takes in a result where the manual names no list of its two values. -/
opaque Config.markByte : Bool → Byte

/-- FREE VALUE (log 10): the byte of a ramp transition's cause in a notice detail. -/
opaque Config.rampCauseByte : RampCause → Byte

/-- FREE VALUE (log 10): the byte of a return, release or kind change in a DETECTOR notice's detail. -/
opaque Config.detectorCauseByte : DetectorCause → Byte

/-- FREE VALUE (log 10): the byte of a definition or dissolution in a ZONE notice's detail. -/
opaque Config.zoneCauseByte : ZoneCause → Byte

end Sys2Proof
end

