-- ==== Sys2Proof/Syntax.lean ====
section
/-! DEFINITION. The commands and events of the CM-1664: one constructor for each row of spec/opcode_table.json.
A command's operands are the bytes of its frame, so that every value a frame can carry is covered; an event's operands
are the numbers of the line, channel, ramp, lane or head it concerns. -/

namespace Sys2Proof

/-- The two serial links. -/
inductive Link where
  | loc
  | centre
  deriving DecidableEq, Repr

/-- A detector channel, 0 to 63. -/
abbrev Chan := Fin 64
/-- A ramp, 0 to 15. -/
abbrev RampNo := Fin 16
/-- Lane k is number k − 1 here. -/
abbrev LaneNo := Fin 3
/-- A head, 0 to 47. -/
abbrev HeadNo := Fin 48
/-- A zone, 0 to 5. -/
abbrev ZoneNo := Fin 6
/-- A store slot, 0 to 23. -/
abbrev SlotNo := Fin 24

/-- The four bytes and words CORRIDOR SET carries for one kind (R143). -/
structure KindArgs where
  debounce : Byte
  maxOn : Word
  silent : Byte
  chatter : Byte
  deriving DecidableEq, Repr

/-- The arguments of CORRIDOR SET in the order of R143. -/
structure CorridorArgs where
  source : Byte
  length : Byte
  kinds : Table KindArgs 5
  persistence : Byte
  recovery : Byte
  tolerance : Byte
  localTime : Word
  centreTime : Word
  deriving DecidableEq, Repr

/-- The arguments of ZONE DEFINE in the order of R143. -/
structure ZoneDefineArgs where
  zone : Byte
  detectors : List Byte
  oc : Word
  gz : Byte
  rmax : Word
  members : List (Byte × Byte)
  deriving DecidableEq, Repr

/-- The arguments of ZONE AMEND in the order of R143. -/
structure ZoneAmendArgs where
  zone : Byte
  oc : Word
  gz : Byte
  rmax : Word
  weights : List (Byte × Byte)
  additions : List (Byte × Byte)
  deriving DecidableEq, Repr

/-- One command or event. A command row stands for the completion of a good frame on its link that carries the
command (R136, R137). -/
inductive Instr where
  /-- COMMISSION (R12, R13): ramp, source, slot. -/
  | commission (l : Link) (ramp source slot : Byte)
  /-- REPLACE PLAN (R12, R15, R16): ramp, source, slot. -/
  | replacePlan (l : Link) (ramp source slot : Byte)
  /-- AMEND (R17, R18): ramp, CONTROL section, queue target. -/
  | amend (l : Link) (ramp : Byte) (control : Table Byte 16) (target : Byte)
  /-- RETIRE (R35). -/
  | retire (l : Link) (ramp : Byte)
  /-- OPEN (R24). -/
  | openRamp (l : Link) (ramp : Byte)
  /-- CLOSE (R27). -/
  | closeRamp (l : Link) (ramp : Byte)
  /-- CLEAR LOCKOUT (R34). -/
  | clearLockout (l : Link) (ramp : Byte)
  /-- OVERRIDE (R127): ramp, rate, duration. -/
  | overrideRate (l : Link) (ramp : Byte) (rate duration : Word)
  /-- END OVERRIDE (R129). -/
  | endOverride (l : Link) (ramp : Byte)
  /-- TAKE AUTHORITY over one ramp (R123). -/
  | takeAuthority (l : Link) (ramp : Byte)
  /-- TAKE AUTHORITY with ALL (R124). -/
  | takeAuthorityAll (l : Link)
  /-- YIELD AUTHORITY over one ramp (R125). -/
  | yieldAuthority (l : Link) (ramp : Byte)
  /-- YIELD AUTHORITY with ALL (R125). -/
  | yieldAuthorityAll (l : Link)
  /-- LOOKUP group 1 (R2, R108). -/
  | lookupRampStatus (l : Link) (index : Byte)
  /-- LOOKUP group 2 (R2). -/
  | lookupRampPlan (l : Link) (index : Byte)
  /-- LOOKUP group 3 (R59). -/
  | lookupChannel (l : Link) (index : Byte)
  /-- LOOKUP group 4 (R59). -/
  | lookupChannelSummary (l : Link) (index : Byte)
  /-- LOOKUP group 5 (R94). -/
  | lookupZone (l : Link) (index : Byte)
  /-- LOOKUP group 6 (R94). -/
  | lookupBulletinEntry (l : Link) (index : Byte)
  /-- LOOKUP group 7 (R157). -/
  | lookupSlotDirectory (l : Link) (index : Byte)
  /-- LOOKUP group 8 (R59). -/
  | lookupCorridorSettings (l : Link) (index : Byte)
  /-- LOOKUP group 9 (R142). -/
  | lookupLinkStatus (l : Link) (index : Byte)
  /-- LOOKUP group 10 (R162). -/
  | lookupRestoreReport (l : Link) (index : Byte)
  /-- ZONE DEFINE (R80, R81). -/
  | zoneDefine (l : Link) (a : ZoneDefineArgs)
  /-- ZONE AMEND (R82 to R84). -/
  | zoneAmend (l : Link) (a : ZoneAmendArgs)
  /-- ZONE DISSOLVE (R85). -/
  | zoneDissolve (l : Link) (zone : Byte)
  /-- CORRIDOR SET (R58, R133). -/
  | corridorSet (l : Link) (a : CorridorArgs)
  /-- STAGE WRITE (R156): section and its 16 bytes. -/
  | stageWrite (l : Link) (sect : Byte) (bytes : Table Byte 16)
  /-- STAGE CLEAR (R156); the byte is disregarded. -/
  | stageClear (l : Link) (unused : Byte)
  /-- STAGE FROM RAMP (R156). -/
  | stageFromRamp (l : Link) (ramp : Byte)
  /-- STORE (R158). -/
  | storeSlot (l : Link) (slot : Byte)
  /-- FETCH (R157). -/
  | fetchSlot (l : Link) (slot : Byte)
  /-- ERASE (R158). -/
  | eraseSlot (l : Link) (slot : Byte)
  /-- PROTECT (R160). -/
  | protectSlot (l : Link) (slot : Byte)
  /-- UNPROTECT (R160). -/
  | unprotectSlot (l : Link) (slot : Byte)
  /-- NOTICE QUERY (R152); the byte is disregarded. -/
  | noticeQuery (l : Link) (unused : Byte)
  /-- NOTICE CLEAR of one kind and subject (R153). -/
  | noticeClear (l : Link) (kind subject : Byte)
  /-- NOTICE CLEAR with ALL (R153); the subject is disregarded. -/
  | noticeClearAll (l : Link) (unused : Byte)
  /-- NOTICE MASK (R151). -/
  | noticeMask (l : Link) (kinds : List Byte)
  /-- RESTART (R146); the byte is disregarded. -/
  | restart (l : Link) (unused : Byte)
  /-- A good frame whose code is unknown or whose length does not fit (R137): its first payload byte. -/
  | unknownCommand (l : Link) (code : Byte)
  /-- A frame whose check fails (R136): its first payload byte as received. -/
  | frameCheckFailure (l : Link) (code : Byte)
  /-- A frame completed while its link is EXECUTING or REPLYING (R138). -/
  | frameOverrun (l : Link)
  /-- The gap timer of a receive frame passes 20 ms (R135). -/
  | receiveGapTimeout (l : Link)
  /-- The last check byte of a response has been sent (R137, R146). -/
  | responseSent (l : Link)
  /-- A presence input goes on (R44). -/
  | presenceOnset (c : Chan)
  /-- A continuous on-time reaches the debounce (R45). -/
  | presenceQualified (c : Chan)
  /-- A presence input goes off (R45). -/
  | presenceEnd (c : Chan)
  /-- A continuous on-time reaches the max-on (R52). -/
  | stuckOn (c : Chan)
  /-- The window timer reaches the window length under INTERNAL (R48). -/
  | windowTimerExpiry
  /-- A rising SYNC edge (R49). -/
  | syncEdge
  /-- A LINE window reaches 9000 cs (R49). -/
  | windowSelfClose
  /-- A bulletin reaches the RPC (R61, R62). -/
  | bulletinArrival
  /-- The WARN timer reaches the warn time (R25). -/
  | warnTimerExpiry (n : RampNo)
  /-- The START-RED timer reaches start red (R26). -/
  | startRedExpiry (n : RampNo)
  /-- The continuous-on time reaches the queue dwell (R102, R103). -/
  | queueAlarm (n : RampNo)
  /-- The continuous-off time reaches the flush hold (R105). -/
  | flushHoldReached (n : RampNo)
  /-- A lane's timers reach the interval and the minimum red (R111). -/
  | laneReady (n : RampNo) (k : LaneNo)
  /-- The stagger spacing runs out for a READY lane (R113). -/
  | spacingExpiry (n : RampNo) (k : LaneNo)
  /-- The green time runs out (R115). -/
  | greenEnd (n : RampNo) (k : LaneNo)
  /-- Every lane of a closing ramp has met its minimum red (R116). -/
  | settleComplete (n : RampNo)
  /-- The close green time runs out (R117, R31). -/
  | closeGreenEnd (n : RampNo)
  /-- The RSQ judges the ramp empty (R104). -/
  | emptyJudgement (n : RampNo)
  /-- The proving inputs of a head become as given (R118). -/
  | provingInputChange (h : HeadNo) (red green : Bool)
  /-- A mismatch timer reaches the proving tolerance (R119, R120). -/
  | provingFaultDeclared (h : HeadNo)
  /-- An override's countdown reaches 0 (R128). -/
  | overrideExpiry (n : RampNo)
  /-- A link's supervision timer reaches its time (R131). -/
  | supervisionLapse (l : Link)
  /-- PERMIT is withdrawn (R37). -/
  | permitLoss
  /-- PERMIT returns (R38). -/
  | permitReturn
  /-- TAKEOVER is asserted (R126). -/
  | takeoverAssert
  /-- TAKEOVER is withdrawn (R126). -/
  | takeoverWithdraw
  /-- Power-on, or the RESET line goes low (R147). -/
  | hardReset
  /-- The RESET line is released (R60). -/
  | resetRelease
  /-- The restore scan takes its next slot (R161). -/
  | restoreScanSlot
  /-- A STORE or ERASE completes; whether the slot reads back as it should (R158). -/
  | storeCompletion (readBackGood : Bool)
  /-- A byte completes on a link (R135). -/
  | byteReceived (l : Link) (b : Byte)
  deriving DecidableEq, Repr

end Sys2Proof
end

