-- ==== Sys2Proof/WellFormed.lean ====
section
/-! DEFINITION. Which terms of Instr a link can carry: the payload of a frame holds at most 250 bytes, and an operand of
0xFF that means ALL belongs to another row. -/

namespace Sys2Proof

/-- The payload length that R143 and R145 give a command with lists fits a frame (R135: 2 to 250). -/
def fitsFrame (payloadLength : Nat) : Bool := decide (payloadLength ≤ 250)

/-- The terms that some frame or line of the part can carry. -/
def WellFormed (i : Instr) : Bool :=
  match i with
  | .takeAuthority _ ramp => ramp != 0xFF
  | .yieldAuthority _ ramp => ramp != 0xFF
  | .noticeClear _ kind _ => kind != 0xFF
  | .zoneDefine _ a => fitsFrame (9 + a.detectors.length + 2 * a.members.length)
  | .zoneAmend _ a => fitsFrame (9 + 2 * a.weights.length + 2 * a.additions.length)
  | .noticeMask _ kinds => fitsFrame (2 + kinds.length)
  | .commission .. | .replacePlan .. | .amend .. | .retire .. | .openRamp .. | .closeRamp .. | .clearLockout ..
  | .overrideRate .. | .endOverride .. | .takeAuthorityAll .. | .yieldAuthorityAll .. | .lookupRampStatus ..
  | .lookupRampPlan .. | .lookupChannel .. | .lookupChannelSummary .. | .lookupZone .. | .lookupBulletinEntry ..
  | .lookupSlotDirectory .. | .lookupCorridorSettings .. | .lookupLinkStatus .. | .lookupRestoreReport ..
  | .zoneDissolve .. | .corridorSet .. | .stageWrite .. | .stageClear .. | .stageFromRamp .. | .storeSlot ..
  | .fetchSlot .. | .eraseSlot .. | .protectSlot .. | .unprotectSlot .. | .noticeQuery .. | .noticeClearAll ..
  | .restart .. | .unknownCommand .. | .frameCheckFailure .. | .frameOverrun .. | .receiveGapTimeout ..
  | .responseSent .. | .presenceOnset .. | .presenceQualified .. | .presenceEnd .. | .stuckOn ..
  | .windowTimerExpiry | .syncEdge | .windowSelfClose | .bulletinArrival | .warnTimerExpiry .. | .startRedExpiry ..
  | .queueAlarm .. | .flushHoldReached .. | .laneReady .. | .spacingExpiry .. | .greenEnd .. | .settleComplete ..
  | .closeGreenEnd .. | .emptyJudgement .. | .provingInputChange .. | .provingFaultDeclared .. | .overrideExpiry ..
  | .supervisionLapse .. | .permitLoss | .permitReturn | .takeoverAssert | .takeoverWithdraw | .hardReset
  | .resetRelease | .restoreScanSlot | .storeCompletion .. | .byteReceived .. => true

end Sys2Proof
end

