-- ==== Sys2Proof/Decode.lean ====
section
/-! DEFINITION. From bytes to commands: the byte order of the links, the frame check, the payload of each command of the
catalogue (R141 to R146) read and written, and the host's decodeTableWord (the opcode table gives no row any bits). -/

namespace Sys2Proof

/-- A two-byte number from its bytes, high byte first (00 Link byte order, R137). -/
def wordOf (hi lo : Byte) : Word := hi ++ lo

/-- The two bytes of a two-byte number, high byte first (00 Link byte order). -/
def wordBytes (w : Word) : List Byte := [w.extractLsb' 8 8, w.extractLsb' 0 8]

/-- The low `k` bytes of a number, high byte first: "the fewest whole bytes its range needs" (R142). -/
def natBytes : Nat → Nat → List Byte
  | 0, _ => []
  | k + 1, v => natBytes k (v / 256) ++ [BitVec.ofNat 8 v]

/-- `k` bits of the check, most significant bit first, generator x^16 + x^12 + x^5 + 1 (R136). -/
def crcShift : Nat → Word → Word
  | 0, w => w
  | k + 1, w => crcShift k (if w.msb then (w <<< 1) ^^^ 0x1021 else w <<< 1)

/-- The check over a run of bytes from a value already reached (R136). -/
def crcFrom (w : Word) : List Byte → Word
  | [] => w
  | b :: rest => crcFrom (crcShift 8 (w ^^^ (b ++ (0 : Byte)))) rest

/-- The CRC-16 of a frame over its length byte and payload, initial value 0xFFFF (R136). -/
def crc16 (bytes : List Byte) : Word := crcFrom 0xFFFF bytes

/-- A whole frame from its payload: start, length, payload, check high byte first (09 Formats). -/
def frameOf (payload : List Byte) : List Byte :=
  let body := BitVec.ofNat 8 payload.length :: payload
  0xC3 :: body ++ wordBytes (crc16 body)

/-- What the LIF reads from the payload of a good frame (R137, R142). -/
inductive Payload where
  /-- A command of the catalogue, of the length the catalogue gives. -/
  | command (i : Instr)
  /-- LOOKUP with a group outside 1 to 10, which is refused with RANGE (R142). -/
  | badGroup
  /-- An unknown code, or a length that does not fit: FORMAT (R137). -/
  | badShape
  deriving DecidableEq, Repr

/-- Pairs of bytes, when their number is even. -/
def pairsOf : List Byte → Option (List (Byte × Byte))
  | [] => some []
  | [_] => none
  | a :: b :: rest => (pairsOf rest).map ((a, b) :: ·)

/-- The bytes of a list of pairs. -/
def pairBytes : List (Byte × Byte) → List Byte
  | [] => []
  | (a, b) :: rest => a :: b :: pairBytes rest

/-- A command when its arguments were read, FORMAT otherwise. -/
def Payload.ofOption : Option Instr → Payload
  | some i => .command i
  | none => .badShape

/-- A section of sixteen bytes. -/
def sectionOf (bytes : List Byte) : Option (Table Byte 16) :=
  if h : bytes.length = 16 then some ⟨bytes, h⟩ else none

/-- ZONE DEFINE's arguments after the code (R143). -/
def decodeZoneDefine (l : Link) : List Byte → Option Instr
  | zone :: n :: rest =>
    if n.toNat ≤ rest.length then
      match rest.drop n.toNat with
      | ocHi :: ocLo :: gz :: rmaxHi :: rmaxLo :: m :: tail =>
        match pairsOf tail with
        | some members =>
          if members.length = m.toNat then
            some (.zoneDefine l ⟨zone, rest.take n.toNat, wordOf ocHi ocLo, gz, wordOf rmaxHi rmaxLo, members⟩)
          else none
        | none => none
      | _ => none
    else none
  | _ => none

/-- ZONE AMEND's arguments after the code (R143). -/
def decodeZoneAmend (l : Link) : List Byte → Option Instr
  | zone :: ocHi :: ocLo :: gz :: rmaxHi :: rmaxLo :: w :: rest =>
    if 2 * w.toNat ≤ rest.length then
      match pairsOf (rest.take (2 * w.toNat)), rest.drop (2 * w.toNat) with
      | some weights, a :: tail =>
        match pairsOf tail with
        | some additions =>
          if additions.length = a.toNat then
            some (.zoneAmend l ⟨zone, wordOf ocHi ocLo, gz, wordOf rmaxHi rmaxLo, weights, additions⟩)
          else none
        | none => none
      | _, _ => none
    else none
  | _ => none

/-- The five bytes CORRIDOR SET gives one kind (R143). -/
def decodeKind : List Byte → Option (KindArgs × List Byte)
  | d :: mHi :: mLo :: s :: c :: rest => some (⟨d, wordOf mHi mLo, s, c⟩, rest)
  | _ => none

/-- CORRIDOR SET's arguments after the code (R143). -/
def decodeCorridor (l : Link) : List Byte → Option Instr
  | source :: length :: rest => do
    let (k0, r0) ← decodeKind rest
    let (k1, r1) ← decodeKind r0
    let (k2, r2) ← decodeKind r1
    let (k3, r3) ← decodeKind r2
    let (k4, r4) ← decodeKind r3
    match r4 with
    | [p, rc, tol, lHi, lLo, cHi, cLo] =>
      some (.corridorSet l ⟨source, length, ⟨[k0, k1, k2, k3, k4], rfl⟩, p, rc, tol, wordOf lHi lLo, wordOf cHi cLo⟩)
    | _ => none
  | _ => none

/-- LOOKUP by its group (R142). -/
def decodeLookup (l : Link) (group index : Byte) : Payload :=
  match group.toNat with
  | 1 => .command (.lookupRampStatus l index)
  | 2 => .command (.lookupRampPlan l index)
  | 3 => .command (.lookupChannel l index)
  | 4 => .command (.lookupChannelSummary l index)
  | 5 => .command (.lookupZone l index)
  | 6 => .command (.lookupBulletinEntry l index)
  | 7 => .command (.lookupSlotDirectory l index)
  | 8 => .command (.lookupCorridorSettings l index)
  | 9 => .command (.lookupLinkStatus l index)
  | 10 => .command (.lookupRestoreReport l index)
  | _ => .badGroup

/-- NOTICE MASK's arguments after the code: a count and that many kinds (R145). -/
def decodeMask (l : Link) : List Byte → Option Instr
  | k :: kinds => if kinds.length = k.toNat then some (.noticeMask l kinds) else none
  | [] => none

/-- AMEND's arguments after the code (R141). -/
def decodeAmend (l : Link) : List Byte → Option Instr
  | ramp :: rest =>
    match sectionOf (rest.take 16), rest.drop 16 with
    | some control, [target] => some (.amend l ramp control target)
    | _, _ => none
  | [] => none

/-- STAGE WRITE's arguments after the code (R144). -/
def decodeStageWrite (l : Link) : List Byte → Option Instr
  | sect :: rest => (sectionOf rest).map (.stageWrite l sect)
  | [] => none

/-- A command whose arguments are one byte. -/
def decodeOne (f : Byte → Instr) : List Byte → Payload
  | [a] => .command (f a)
  | _ => .badShape

/-- A command whose arguments are three bytes. -/
def decodeThree (f : Byte → Byte → Byte → Instr) : List Byte → Payload
  | [a, b, c] => .command (f a b c)
  | _ => .badShape

/-- OVERRIDE's arguments after the code (R141). -/
def decodeOverride (l : Link) : List Byte → Payload
  | [r, vHi, vLo, dHi, dLo] => .command (.overrideRate l r (wordOf vHi vLo) (wordOf dHi dLo))
  | _ => .badShape

/-- The arguments of a command by its code (R141 to R146). A RESTART of the wrong length is FORMAT on either link (R137, log 39). -/
def decodeArgs (l : Link) (code : Nat) (args : List Byte) : Payload :=
  match code with
  | 0x10 => match args with
    | [group, index] => decodeLookup l group index
    | _ => .badShape
  | 0x11 => decodeThree (.commission l) args
  | 0x12 => decodeThree (.replacePlan l) args
  | 0x13 => .ofOption (decodeAmend l args)
  | 0x14 => decodeOne (.retire l) args
  | 0x15 => decodeOne (.openRamp l) args
  | 0x16 => decodeOne (.closeRamp l) args
  | 0x17 => decodeOne (.clearLockout l) args
  | 0x18 => decodeOverride l args
  | 0x19 => decodeOne (.endOverride l) args
  | 0x1A => decodeOne (fun r => if r = 0xFF then .takeAuthorityAll l else .takeAuthority l r) args
  | 0x1B => decodeOne (fun r => if r = 0xFF then .yieldAuthorityAll l else .yieldAuthority l r) args
  | 0x20 => .ofOption (decodeZoneDefine l args)
  | 0x21 => .ofOption (decodeZoneAmend l args)
  | 0x22 => decodeOne (.zoneDissolve l) args
  | 0x30 => .ofOption (decodeCorridor l args)
  | 0x3F => decodeOne (.restart l) args
  | 0x40 => .ofOption (decodeStageWrite l args)
  | 0x41 => decodeOne (.stageClear l) args
  | 0x42 => decodeOne (.stageFromRamp l) args
  | 0x43 => decodeOne (.storeSlot l) args
  | 0x44 => decodeOne (.fetchSlot l) args
  | 0x45 => decodeOne (.eraseSlot l) args
  | 0x46 => decodeOne (.protectSlot l) args
  | 0x47 => decodeOne (.unprotectSlot l) args
  | 0x50 => decodeOne (.noticeQuery l) args
  | 0x51 => match args with
    | [kind, subject] => .command (if kind = 0xFF then .noticeClearAll l subject else .noticeClear l kind subject)
    | _ => .badShape
  | 0x52 => .ofOption (decodeMask l args)
  | _ => .badShape

/-- The command a good frame's payload spells on a link (R137). -/
def decodePayload (l : Link) : List Byte → Payload
  | [] => .badShape
  | code :: args => decodeArgs l code.toNat args

/-- The bytes CORRIDOR SET gives one kind (R143). -/
def KindArgs.bytes (k : KindArgs) : List Byte := k.debounce :: wordBytes k.maxOn ++ [k.silent, k.chatter]

/-- The payload that carries a command row, written from the catalogue (R141 to R146); none for an event row and for the
two rows whose frames carry no command. -/
def encodePayload (i : Instr) : Option (List Byte) :=
  match i with
  | .commission _ r s n => some [0x11, r, s, n]
  | .replacePlan _ r s n => some [0x12, r, s, n]
  | .amend _ r c t => some (0x13 :: r :: c.cells ++ [t])
  | .retire _ r => some [0x14, r]
  | .openRamp _ r => some [0x15, r]
  | .closeRamp _ r => some [0x16, r]
  | .clearLockout _ r => some [0x17, r]
  | .overrideRate _ r v d => some (0x18 :: r :: wordBytes v ++ wordBytes d)
  | .endOverride _ r => some [0x19, r]
  | .takeAuthority _ r => some [0x1A, r]
  | .takeAuthorityAll _ => some [0x1A, 0xFF]
  | .yieldAuthority _ r => some [0x1B, r]
  | .yieldAuthorityAll _ => some [0x1B, 0xFF]
  | .lookupRampStatus _ x => some [0x10, 1, x]
  | .lookupRampPlan _ x => some [0x10, 2, x]
  | .lookupChannel _ x => some [0x10, 3, x]
  | .lookupChannelSummary _ x => some [0x10, 4, x]
  | .lookupZone _ x => some [0x10, 5, x]
  | .lookupBulletinEntry _ x => some [0x10, 6, x]
  | .lookupSlotDirectory _ x => some [0x10, 7, x]
  | .lookupCorridorSettings _ x => some [0x10, 8, x]
  | .lookupLinkStatus _ x => some [0x10, 9, x]
  | .lookupRestoreReport _ x => some [0x10, 10, x]
  | .zoneDefine _ a => some (0x20 :: a.zone :: BitVec.ofNat 8 a.detectors.length :: a.detectors ++ wordBytes a.oc
      ++ a.gz :: wordBytes a.rmax ++ BitVec.ofNat 8 a.members.length :: pairBytes a.members)
  | .zoneAmend _ a => some (0x21 :: a.zone :: wordBytes a.oc ++ a.gz :: wordBytes a.rmax
      ++ BitVec.ofNat 8 a.weights.length :: pairBytes a.weights
      ++ BitVec.ofNat 8 a.additions.length :: pairBytes a.additions)
  | .zoneDissolve _ z => some [0x22, z]
  | .corridorSet _ a => some (0x30 :: a.source :: a.length :: a.kinds.cells.flatMap KindArgs.bytes
      ++ [a.persistence, a.recovery, a.tolerance] ++ wordBytes a.localTime ++ wordBytes a.centreTime)
  | .stageWrite _ s b => some (0x40 :: s :: b.cells)
  | .stageClear _ x => some [0x41, x]
  | .stageFromRamp _ r => some [0x42, r]
  | .storeSlot _ x => some [0x43, x]
  | .fetchSlot _ x => some [0x44, x]
  | .eraseSlot _ x => some [0x45, x]
  | .protectSlot _ x => some [0x46, x]
  | .unprotectSlot _ x => some [0x47, x]
  | .noticeQuery _ x => some [0x50, x]
  | .noticeClear _ k x => some [0x51, k, x]
  | .noticeClearAll _ x => some [0x51, 0xFF, x]
  | .noticeMask _ ks => some (0x52 :: BitVec.ofNat 8 ks.length :: ks)
  | .restart _ x => some [0x3F, x]
  | .unknownCommand .. | .frameCheckFailure .. | .frameOverrun .. | .receiveGapTimeout .. | .responseSent ..
  | .presenceOnset .. | .presenceQualified .. | .presenceEnd .. | .stuckOn .. | .windowTimerExpiry | .syncEdge
  | .windowSelfClose | .bulletinArrival | .warnTimerExpiry .. | .startRedExpiry .. | .queueAlarm ..
  | .flushHoldReached .. | .laneReady .. | .spacingExpiry .. | .greenEnd .. | .settleComplete .. | .closeGreenEnd ..
  | .emptyJudgement .. | .provingInputChange .. | .provingFaultDeclared .. | .overrideExpiry .. | .supervisionLapse ..
  | .permitLoss | .permitReturn | .takeoverAssert | .takeoverWithdraw | .hardReset | .resetRelease | .restoreScanSlot
  | .storeCompletion .. | .byteReceived .. => none

/-- The link a command row names; `loc` for a row that names none. -/
def Instr.linkOf (i : Instr) : Link :=
  match i with
  | .commission l .. | .replacePlan l .. | .amend l .. | .retire l .. | .openRamp l .. | .closeRamp l ..
  | .clearLockout l .. | .overrideRate l .. | .endOverride l .. | .takeAuthority l .. | .takeAuthorityAll l
  | .yieldAuthority l .. | .yieldAuthorityAll l | .lookupRampStatus l .. | .lookupRampPlan l .. | .lookupChannel l ..
  | .lookupChannelSummary l .. | .lookupZone l .. | .lookupBulletinEntry l .. | .lookupSlotDirectory l ..
  | .lookupCorridorSettings l .. | .lookupLinkStatus l .. | .lookupRestoreReport l .. | .zoneDefine l ..
  | .zoneAmend l .. | .zoneDissolve l .. | .corridorSet l .. | .stageWrite l .. | .stageClear l .. | .stageFromRamp l ..
  | .storeSlot l .. | .fetchSlot l .. | .eraseSlot l .. | .protectSlot l .. | .unprotectSlot l .. | .noticeQuery l ..
  | .noticeClear l .. | .noticeClearAll l .. | .noticeMask l .. | .restart l .. | .unknownCommand l ..
  | .frameCheckFailure l .. | .frameOverrun l | .receiveGapTimeout l | .responseSent l | .supervisionLapse l
  | .byteReceived l .. => l
  | .presenceOnset .. | .presenceQualified .. | .presenceEnd .. | .stuckOn .. | .windowTimerExpiry | .syncEdge
  | .windowSelfClose | .bulletinArrival | .warnTimerExpiry .. | .startRedExpiry .. | .queueAlarm ..
  | .flushHoldReached .. | .laneReady .. | .spacingExpiry .. | .greenEnd .. | .settleComplete .. | .closeGreenEnd ..
  | .emptyJudgement .. | .provingInputChange .. | .provingFaultDeclared .. | .overrideExpiry .. | .permitLoss
  | .permitReturn | .takeoverAssert | .takeoverWithdraw | .hardReset | .resetRelease | .restoreScanSlot
  | .storeCompletion .. => .loc

/-- The opcode table gives none of its rows any bits, so no word spells a command. -/
def decodeTableWord (_nbits _w : Nat) : Option Instr := none

end Sys2Proof
end

