-- ==== Sys2Proof/Machine/State.lean ====
section
/-! DEFINITION. Every piece of state the spec gives the CM-1664, as plain data, and the state after a hard reset. -/

namespace Sys2Proof.Machine

/-! ### The plan (01) -/

/-- The kinds a channel can be claimed as (R7, R41). -/
inductive Kind where
  | mainline
  | entry
  | demand
  | passage
  | queueEnd
  deriving DecidableEq, Repr

/-- The lane order of a plan (01 LAYOUT). -/
inductive LaneOrder where
  | together
  | staggered
  deriving DecidableEq, Repr

/-- The LAYOUT section as installed (R5, R6). A mainline field keeps its position in the image, as the image written back shows
(the model's choice, log 48); the mainline list is formed from the fields present (R148). -/
structure Layout where
  bound : RampNo
  lanes : Nat
  v : Nat
  order : LaneOrder
  mainFields : Table (Option Chan) 4
  entry : Option Chan
  queueEnd : Option Chan
  demand : Table (Option Chan) 3
  passage : Table (Option Chan) 3
  autoRestore : Bool
  autoOpen : Bool
  deriving DecidableEq, Repr

/-- The TIMING section as settled (R8): ds, ds, s, ds, ds. -/
structure Timing where
  green : Nat
  minRed : Nat
  warn : Nat
  startRed : Nat
  closeGreen : Nat
  deriving DecidableEq, Repr

/-- The CONTROL section (R9). -/
structure Control where
  target : Nat
  gain : Nat
  minRate : Nat
  maxRate : Nat
  startRate : Nat
  fallback : Nat
  deriving DecidableEq, Repr

/-- The QUEUE section (R10): vehicles, vehicles, s, s, ds. -/
structure QueueSection where
  storage : Nat
  target : Nat
  dwell : Nat
  flushHold : Nat
  emptyTime : Nat
  deriving DecidableEq, Repr

/-- A plan: its four sections. -/
structure Plan where
  layout : Layout
  timing : Timing
  control : Control
  queue : QueueSection
  deriving DecidableEq, Repr

/-- The plan fields that can carry a trimmed mark (R11), in the order of their image offsets. -/
inductive PlanField where
  | v
  | green
  | minRed
  | warn
  | startRed
  | closeGreen
  | targetOcc
  | gain
  | minRate
  | maxRate
  | startRate
  | fallback
  | storage
  | queueTarget
  | dwell
  | flushHold
  | emptyTime
  deriving DecidableEq, Repr

/-- A settled amendment awaiting installation (R17, R18). -/
structure Amendment where
  control : Control
  queueTarget : Nat
  effMax : Nat
  marks : List PlanField
  deriving DecidableEq, Repr

/-! ### Detector channels and windows (03) -/

/-- A ramp or a zone that references a channel (R41). -/
inductive Referencer where
  | ramp (n : RampNo)
  | zone (z : ZoneNo)
  deriving DecidableEq, Repr

/-- The health of a channel (03). -/
inductive Health where
  | disabled
  | settling
  | good
  | suspect
  | failed
  deriving DecidableEq, Repr

/-- A set of the three faults a window can show (R52 to R54). -/
structure FaultSet where
  stuckOn : Bool
  silent : Bool
  chatter : Bool
  deriving DecidableEq, Repr

/-- No fault seen. -/
def FaultSet.empty : FaultSet := ⟨false, false, false⟩

/-- The validity of a summary entry (R51). -/
inductive Validity where
  | disabled
  | settling
  | valid
  | faulty
  deriving DecidableEq, Repr

/-- One channel's entry in a window summary (R51). -/
structure SummaryEntry where
  occupancy : Nat
  count : Nat
  validity : Validity
  faults : FaultSet
  deriving DecidableEq, Repr

/-- A window summary (R51). -/
structure Summary where
  number : Nat
  w : Nat
  entries : Table SummaryEntry 64
  deriving DecidableEq, Repr

/-- A channel record (03). `pin` is the presence input itself; `inProgress`, `onsetNow` and `refsChanged` are the model's
own (logs 18, 5). -/
structure Channel where
  pin : Bool
  refs : List (Referencer × Kind)
  sampling : Option Kind
  health : Health
  healthCount : Nat
  presence : Bool
  contOn : Nat
  qualified : Bool
  stuck : Bool
  onTime : Nat
  counted : Nat
  shortPulses : Nat
  faults : FaultSet
  silentRun : Nat
  last : Option SummaryEntry
  inProgress : Bool
  onsetNow : Bool
  refsChanged : Bool
  deriving DecidableEq, Repr

/-- The window source (R48, R49). -/
inductive WindowSource where
  | internal
  | line
  deriving DecidableEq, Repr

/-- The parameters of one kind (R58): cs, s, windows, pulses. -/
structure KindSettings where
  debounce : Nat
  maxOn : Nat
  silent : Nat
  chatter : Nat
  deriving DecidableEq, Repr

/-- The corridor settings (R58); `kinds` in the order MAINLINE, ENTRY, DEMAND, PASSAGE, QUEUE-END. -/
structure Settings where
  source : WindowSource
  length : Nat
  kinds : Table KindSettings 5
  persistence : Nat
  recovery : Nat
  tolerance : Nat
  deriving DecidableEq, Repr

/-- The defaults of R58 and of the fault table. -/
def Settings.default : Settings where
  source := .internal
  length := 20
  kinds := ⟨[⟨4, 60, 30, 20⟩, ⟨4, 60, 45, 20⟩, ⟨4, 180, 0, 20⟩, ⟨4, 30, 45, 20⟩, ⟨4, 900, 0, 20⟩], rfl⟩
  persistence := 3
  recovery := 10
  tolerance := 30

/-! ### Ramp records (01, 02, 04, 06, 08) -/

/-- The states of a ramp (02). -/
inductive RampState where
  | vacant
  | parked
  | opening
  | metering
  | flushing
  | closing
  | lockout
  deriving DecidableEq, Repr

/-- The sub-phases of OPENING and CLOSING (01). -/
inductive SubPhase where
  | warn
  | startRed
  | settle
  | green
  deriving DecidableEq, Repr

/-- The stopped cause (R19). -/
inductive StopCause where
  | command
  | permit
  | closed
  | restored
  deriving DecidableEq, Repr

/-- The limiting term (R73). -/
inductive Limiting where
  | localTerm
  | fallback
  | override
  | zone (z : ZoneNo)
  | queue
  | minimum
  | maximum
  | flush
  | start
  deriving DecidableEq, Repr

/-- An override (R127, R128): `remaining` is absent for "until ended"; `phase` counts the centiseconds of the second in
progress, and stands at 100 when the last second has run (log 4). -/
structure Override where
  rate : Nat
  remaining : Option Nat
  setBy : Link
  phase : Nat
  deriving DecidableEq, Repr

/-- A ramp record (01), with the RPC's and the RSQ's own fields for the ramp. `dwellTaken` and `alarmTaken` say that the run of
effective presence in progress has reached its dwell, and has brought the queue alarm (R102, R103, log 16); `emptyJudged` that the empty
judgement has been reported and stands, `emptyPending` that its report is in transit to the RPC (R104, R107, log 17). -/
structure Ramp where
  state : RampState
  sub : Option SubPhase
  retirePending : Bool
  plan : Option Plan
  effMax : Option Nat
  trimmed : List PlanField
  amendment : Option Amendment
  authority : Option Link
  override : Option Override
  applied : Nat
  computed : Nat
  limiting : Option Limiting
  intervals : List Nat
  q : Nat
  hold : Bool
  joined : List ZoneNo
  lastUpdate : Option Nat
  contOn : Nat
  contOff : Nat
  stopped : Option StopCause
  subTimer : Nat
  held : List (Chan × Health)
  qeOn : Bool
  dwellTaken : Bool
  alarmTaken : Bool
  closeTimer : Nat
  emptyJudged : Bool
  emptyPending : Bool
  deriving DecidableEq, Repr

/-- The VACANT record (R3). -/
def Ramp.vacantRecord : Ramp where
  state := .vacant
  sub := none
  retirePending := false
  plan := none
  effMax := none
  trimmed := []
  amendment := none
  authority := none
  override := none
  applied := 0
  computed := 0
  limiting := none
  intervals := []
  q := 0
  hold := false
  joined := []
  lastUpdate := none
  contOn := 0
  contOff := 0
  stopped := none
  subTimer := 0
  held := []
  qeOn := false
  dwellTaken := false
  alarmTaken := false
  closeTimer := 0
  emptyJudged := false
  emptyPending := false

/-! ### Lane-head contexts (07) -/

/-- The cycle state of a head (07). -/
inductive CycleState where
  | dark
  | hold
  | ready
  | green
  | restGreen
  deriving DecidableEq, Repr

/-- The commanded aspect of a head (R109). -/
inductive Aspect where
  | dark
  | red
  | green
  deriving DecidableEq, Repr

/-- The four fault classes (R118). -/
inductive FaultClass where
  | greenConflict
  | redOut
  | greenOut
  | strayRed
  deriving DecidableEq, Repr

/-- A lane-head context (07). `redPin` and `greenPin` are the proving inputs; `demandTimed` and `due` are the model's own: `due`
is a fault whose mismatch has reached the tolerance and whose declaration is still to be taken (logs 17, 30). -/
structure Head where
  cycle : CycleState
  sinceStart : Nat
  sinceEnd : Nat
  demandOn : Bool
  demandHealth : Option Health
  demandOff : Nat
  demandTimed : Bool
  redPin : Bool
  greenPin : Bool
  redProved : Bool
  greenProved : Bool
  mismatch : Nat
  lastFault : Option FaultClass
  standing : Bool
  due : Option FaultClass
  deriving DecidableEq, Repr

/-- A context as a reset leaves it (R121) with neither lamp proved. -/
def Head.resetContext : Head where
  cycle := .dark
  sinceStart := 6000
  sinceEnd := 6000
  demandOn := false
  demandHealth := none
  demandOff := 0
  demandTimed := false
  redPin := false
  greenPin := false
  redProved := false
  greenProved := false
  mismatch := 0
  lastFault := none
  standing := false
  due := none

/-! ### Zones (05) -/

/-- The states of a zone (05). -/
inductive ZoneState where
  | vacant
  | idle
  | restricting
  | degraded
  deriving DecidableEq, Repr

/-- The pending amendment of a zone (R84). -/
structure ZoneAmendment where
  oc : Option Nat
  gz : Option Nat
  rmax : Option Nat
  weights : List (RampNo × Nat)
  additions : List (RampNo × Nat)
  deriving DecidableEq, Repr

/-- A zone record (05). -/
structure Zone where
  state : ZoneState
  owner : Option Link
  detectors : List Chan
  oc : Nat
  gz : Nat
  rmax : Nat
  members : List (RampNo × Nat)
  r : Nat
  unable : Bool
  oz : Option Nat
  lastEval : Option Nat
  amendment : Option ZoneAmendment
  deriving DecidableEq, Repr

/-- The VACANT record (R85, R95); Oc, Gz and Rmax have no stated value there (log 19). -/
def Zone.vacantRecord : Zone where
  state := .vacant
  owner := none
  detectors := []
  oc := 0
  gz := 0
  rmax := 0
  members := []
  r := 0
  unable := false
  oz := none
  lastEval := none
  amendment := none

/-- A zone's entry in a bulletin (R92). -/
structure BulletinEntry where
  zone : ZoneNo
  state : ZoneState
  r : Nat
  shares : List (RampNo × Nat)
  deriving DecidableEq, Repr

/-- A share bulletin (R92). -/
structure Bulletin where
  number : Nat
  entries : List BulletinEntry
  deriving DecidableEq, Repr

/-! ### Notices (10) -/

/-- The eleven kinds of notice in order of priority (10). -/
inductive NoticeKind where
  | lockout
  | permit
  | flush
  | detector
  | lamp
  | supervision
  | zone
  | rampState
  | store
  | sync
  | restore
  deriving DecidableEq, Repr

/-- A store operation (R158). -/
inductive StoreOp where
  | store
  | erase
  deriving DecidableEq, Repr

/-- What a notice carries in its detail, by its raising rule. The notice of a transition carries the new state and the cause (R39), a
LOCKOUT and a FLUSH notice before the fields of R33, R34 and R106 (log 31). -/
inductive Detail where
  /-- Nothing beside the kind and the subject (PERMIT, SUPERVISION). -/
  | none
  /-- The new state and the cause (R39), the head and the fault (R33, R34). -/
  | lockout (state : RampState) (cause : RampCause) (head : HeadNo) (fault : FaultClass)
  /-- The new state and the cause (R39), the queue-end channel, the dwell, Q before it was set, the storage capacity (R106). -/
  | flush (state : RampState) (cause : RampCause) (channel : Option Chan) (dwell qBefore storage : Nat)
  /-- An entry to FAILED: the faults of the window that caused it (R57). -/
  | detectorFailed (faults : FaultSet)
  /-- A return to GOOD, a release or a kind change (R57). -/
  | detector (cause : DetectorCause)
  /-- The fault class, the commanded aspect and the ramp's state (R120). -/
  | lamp (fault : FaultClass) (aspect : Aspect) (ramp : RampState)
  /-- The new state, R, unable and the window of the evaluation (R93). -/
  | zoneEvaluated (state : ZoneState) (r : Nat) (unable : Bool) (window : Nat)
  /-- The new state, R, unable and the cause, for a definition or dissolution (R93). -/
  | zoneChanged (state : ZoneState) (r : Nat) (unable : Bool) (cause : ZoneCause)
  /-- The new state and the cause (R39); for PARKED the cause is the stopped cause (R19). -/
  | rampState (state : RampState) (cause : RampCause)
  /-- The operation, done or failed, and for a STORE the bound ramp of the image (R158). -/
  | store (op : StoreOp) (done : Bool) (bound : Option Byte)
  /-- The number of the self-closed window (R49). -/
  | sync (window : Nat)
  /-- The count of each outcome in the order of R161. -/
  | restore (counts : List Nat)
  deriving DecidableEq, Repr

/-- A notice record (R149). -/
structure Notice where
  kind : NoticeKind
  subject : Nat
  latched : Bool
  live : Bool
  detail : Detail
  deriving DecidableEq, Repr

/-! ### Links (09) -/

/-- The states of a link (09). -/
inductive LinkState where
  | idle
  | receiving
  | executing
  | replying
  deriving DecidableEq, Repr

/-- The receive frame of a link (R135); `assembling` holds the bytes taken after the start byte. -/
inductive RxFrame where
  | absent
  | assembling (bytes : List Byte)
  | void
  deriving DecidableEq, Repr

/-- The status codes (R140). -/
inductive Status where
  | done
  | accepted
  | check
  | format
  | range
  | absent
  | state
  | authority
  | conflict
  | busy
  | staged
  | incomplete
  | guarded
  | damaged
  | link
  deriving DecidableEq, Repr

/-- The five marks of the flags byte (R139). -/
structure ResponseFlags where
  noticePending : Bool
  overrun : Bool
  supervised : Bool
  takeover : Bool
  permit : Bool
  deriving DecidableEq, Repr

/-- A response being sent (R139). -/
structure Response where
  status : Status
  flags : ResponseFlags
  echo : Byte
  result : List Byte
  deriving DecidableEq, Repr

/-- A link context (09), with the link's pending and mask sets of the NTU (10). -/
structure LinkCtx where
  linkState : LinkState
  rx : RxFrame
  gap : Nat
  overrun : Bool
  supervised : Bool
  supTime : Nat
  supTimer : Nat
  response : Option Response
  set : List Notice
  unmasked : Table Bool 11
  deriving DecidableEq, Repr

/-! ### The plan store (11) -/

/-- The states of a slot (R157). -/
inductive SlotState where
  | empty
  | valid
  | damaged
  deriving DecidableEq, Repr

/-- A store slot (11). `agrees` says whether the stored check value agrees with the image (log 12). -/
structure Slot where
  image : Table Byte 64
  agrees : Bool
  state : SlotState
  guarded : Bool
  deriving DecidableEq, Repr

/-- A slot that has never been written (R157). -/
def Slot.neverWritten : Slot := ⟨Table.fill 64 0, false, .empty, false⟩

/-- The store or erase in flight (R158): for a STORE the image being written. -/
structure StoreBusy where
  op : StoreOp
  slot : SlotNo
  image : Table Byte 64
  deriving DecidableEq, Repr

/-- The restore scan (R161): not running, to begin when the store in flight completes (R159), or at a slot. -/
inductive Scan where
  | idle
  | afterStore
  | at (k : SlotNo)
  deriving DecidableEq, Repr

/-- The outcomes of the restore scan (R161). -/
inductive ScanOutcome where
  | empty
  | damaged
  | notAuto
  | skippedDuplicate
  | skippedConflict
  | restored
  | opened
  deriving DecidableEq, Repr

/-- An entry of the restore report (R162). -/
structure ReportEntry where
  outcome : ScanOutcome
  bound : Option Byte
  deriving DecidableEq, Repr

/-! ### The whole -/

/-- The state of the CM-1664 and the queue of the commands that wait. `count` is a natural number with no width: R1 states neither a
width nor a wrap, and it never wraps (log 40). -/
structure State where
  pending : List Instr
  count : Nat
  resetHeld : Bool
  permit : Bool
  takeover : Bool
  tieCount : Nat
  loc : LinkCtx
  centre : LinkCtx
  restartPending : Bool
  chans : Table Channel 64
  winNum : Nat
  elapsed : Nat
  settings : Settings
  pendSettings : Option Settings
  lastClosed : Option (Nat × Nat)
  ramps : Table Ramp 16
  heads : Table Head 48
  zones : Table Zone 6
  bulletin : Option Bulletin
  transit : List (Summary × Bulletin)
  stage : Table (Option (Table Byte 16)) 4
  slots : Table Slot 24
  store : Option StoreBusy
  scan : Scan
  report : Table (Option ReportEntry) 24
  deriving DecidableEq, Repr

/-- A channel record as a reset leaves it (R60) with the input off. -/
def Channel.resetRecord : Channel where
  pin := false
  refs := []
  sampling := none
  health := .disabled
  healthCount := 0
  presence := false
  contOn := 0
  qualified := false
  stuck := false
  onTime := 0
  counted := 0
  shortPulses := 0
  faults := .empty
  silentRun := 0
  last := none
  inProgress := false
  onsetNow := false
  refsChanged := false

/-- The PERMIT notice of R40: PERMIT is absent as the reset ends. -/
def Notice.permitAbsent : Notice := ⟨.permit, 0, false, true, .none⟩

/-- A link context after a hard reset (R134, R147, R155) with the notice of R40. -/
def LinkCtx.afterReset (supTime : Nat) : LinkCtx where
  linkState := .idle
  rx := .absent
  gap := 0
  overrun := false
  supervised := false
  supTime := supTime
  supTimer := 0
  response := none
  set := [Notice.permitAbsent]
  unmasked := Table.fill 11 false

/-- The machine in the event that ends a hard reset with every line inactive (R1, R22, R40, R60, R95, R121, R134, R147,
R155, R161, R162; the line levels and the slots are log 3 and log 23). -/
def State.reset : State where
  pending := []
  count := 0
  resetHeld := false
  permit := false
  takeover := false
  tieCount := 0
  loc := LinkCtx.afterReset 0
  centre := LinkCtx.afterReset 90
  restartPending := false
  chans := Table.fill 64 Channel.resetRecord
  winNum := 0
  elapsed := 0
  settings := Settings.default
  pendSettings := none
  lastClosed := none
  ramps := Table.fill 16 Ramp.vacantRecord
  heads := Table.fill 48 Head.resetContext
  zones := Table.fill 6 Zone.vacantRecord
  bulletin := none
  transit := []
  stage := Table.fill 4 none
  slots := Table.fill 24 Slot.neverWritten
  store := none
  scan := .at 0
  report := Table.fill 24 none

/-- Why a step could stop. The part itself never stops: it answers a refused command with a status (R140) and a fault of
the road side with a notice or a state. -/
inductive Fault where
  /-- Raised by no meaning (safe): the spec gives every row an effect. -/
  | stopped
  deriving DecidableEq, Repr

/-- Why a step could have no meaning. -/
inductive Refusal where
  /-- Raised only by an arm of exec that has no meaning yet (safe). -/
  | notModelled (mnemonic : String)
  deriving DecidableEq, Repr

end Sys2Proof.Machine
end

