-- ==== Sys2Proof/Machine/Operands.lean ====
section
/-! DEFINITION. The operand forms: range checks of a command's arguments, the plan image read and written (R148), and the
settling of a plan and of an amendment (R5 to R11, R17). -/

namespace Sys2Proof.Machine

/-! ### Whole-number arithmetic (00 Arithmetic) -/

/-- The ceiling of a quotient (R76). -/
def ceilDiv (a b : Nat) : Nat := (a + (b - 1)) / b

/-- `x` brought into the range `lo` to `hi` (00 Arithmetic). -/
def clamp (x lo hi : Nat) : Nat := if x < lo then lo else if hi < x then hi else x

/-! ### Arguments of one byte (09, the command catalogue) -/

/-- A number below a bound, when the byte is one. -/
def byteBelow (n : Nat) (b : Byte) : Option (Fin n) := if h : b.toNat < n then some ⟨b.toNat, h⟩ else none

/-- A ramp argument, 0 to 15. -/
def rampArg (b : Byte) : Option RampNo := byteBelow 16 b
/-- A zone argument, 0 to 5. -/
def zoneArg (b : Byte) : Option ZoneNo := byteBelow 6 b
/-- A slot argument, 0 to 23. -/
def slotArg (b : Byte) : Option SlotNo := byteBelow 24 b
/-- A channel argument, 0 to 63. -/
def chanArg (b : Byte) : Option Chan := byteBelow 64 b
/-- A link argument: 0 local, 1 centre (R142). -/
def linkArg (b : Byte) : Option Link := if b = 0 then some .loc else if b = 1 then some .centre else none

/-! ### Lanes and heads (00 Numbering) -/

/-- Head h = 3n + k − 1. -/
def headOf (n : RampNo) (k : LaneNo) : HeadNo := ⟨3 * n.val + k.val, by omega⟩
/-- The ramp of a head. -/
def headRamp (h : HeadNo) : RampNo := ⟨h.val / 3, by omega⟩
/-- The lane of a head. -/
def headLane (h : HeadNo) : LaneNo := ⟨h.val % 3, by omega⟩

/-- The lanes 1 to L. -/
def lanesTo (lanes : Nat) : List LaneNo := (List.finRange 3).filter (fun k => decide (k.val < lanes))

/-- The lanes in use under a plan. -/
def Plan.laneList (p : Plan) : List LaneNo := lanesTo p.layout.lanes

/-! ### The plan image read (R148) -/

/-- The byte at an offset of an image or a section, as a number. -/
def byteAt {n : Nat} (t : Table Byte n) (i : Nat) : Nat := (t.cells.getD i 0).toNat

/-- The two-byte number at an offset, high byte first (R148). -/
def wordAt {n : Nat} (t : Table Byte n) (i : Nat) : Nat := byteAt t i * 256 + byteAt t (i + 1)

/-- What a channel field holds (R148). -/
inductive ChanField where
  | absent
  | channel (c : Chan)
  | outOfRange
  deriving DecidableEq, Repr

/-- A channel field: 0xFF is absent, 64 to 254 is out of range (R148). -/
def readChan (v : Nat) : ChanField :=
  if v = 255 then .absent else if h : v < 64 then .channel ⟨v, h⟩ else .outOfRange

/-- The channel of a field that is in range. -/
def ChanField.chan? (f : ChanField) : Option Chan :=
  match f with
  | .channel c => some c
  | .absent => none
  | .outOfRange => none

/-- The channel fields that R5 checks: the mainline list, entry, queue-end, and demand and passage of lanes 1 to L. -/
def checkedFields {n : Nat} (img : Table Byte n) (lanes : Nat) : List ChanField :=
  ([4, 5, 6, 7, 8, 9].map fun i => readChan (byteAt img i)) ++
    (lanesTo lanes).flatMap fun k => [readChan (byteAt img (10 + 2 * k.val)), readChan (byteAt img (11 + 2 * k.val))]

/-- The mainline fields of an image in position order. -/
def mainFieldsOf {n : Nat} (img : Table Byte n) : Table (Option Chan) 4 :=
  Table.build 4 fun i => (readChan (byteAt img (4 + i.val))).chan?

/-- A lane's field, absent above L (R6). -/
def laneField {n : Nat} (img : Table Byte n) (base lanes : Nat) (k : LaneNo) : Option Chan :=
  if k.val < lanes then (readChan (byteAt img (base + 2 * k.val))).chan? else none

/-- The structural checks of R5 for a plan bound to ramp `n`. -/
def structureOk {m : Nat} (n : RampNo) (img : Table Byte m) : Bool :=
  decide (byteAt img 0 = n.val) && decide (1 ≤ byteAt img 1) && decide (byteAt img 1 ≤ 3) &&
    (mainFieldsOf img).cells.any Option.isSome &&
    (checkedFields img (byteAt img 1)).all (fun f => decide (f ≠ .outOfRange))

/-- The LAYOUT section of an image, its numeric field settled by R6. -/
def readLayout {m : Nat} (n : RampNo) (img : Table Byte m) : Layout where
  bound := n
  lanes := byteAt img 1
  v := clamp (byteAt img 2) 1 2
  order := if byteAt img 3 % 2 = 1 then .staggered else .together
  mainFields := mainFieldsOf img
  entry := (readChan (byteAt img 8)).chan?
  queueEnd := (readChan (byteAt img 9)).chan?
  demand := Table.build 3 (laneField img 10 (byteAt img 1))
  passage := Table.build 3 (laneField img 11 (byteAt img 1))
  autoRestore := decide (byteAt img 3 / 2 % 2 = 1)
  autoOpen := decide (byteAt img 3 / 4 % 2 = 1)

/-- The TIMING section as written. -/
def rawTiming {n : Nat} (img : Table Byte n) : Timing where
  green := byteAt img 16
  minRed := byteAt img 17
  warn := wordAt img 18
  startRed := wordAt img 20
  closeGreen := wordAt img 22

/-- A CONTROL section as written, from the offset at which it begins. -/
def rawControl {n : Nat} (t : Table Byte n) (at0 : Nat) : Control where
  target := wordAt t at0
  gain := byteAt t (at0 + 2)
  minRate := wordAt t (at0 + 3)
  maxRate := wordAt t (at0 + 5)
  startRate := wordAt t (at0 + 7)
  fallback := wordAt t (at0 + 9)

/-- The QUEUE section as written. -/
def rawQueue {n : Nat} (img : Table Byte n) : QueueSection where
  storage := byteAt img 48
  target := byteAt img 49
  dwell := byteAt img 50
  flushHold := byteAt img 51
  emptyTime := wordAt img 52

/-! ### Settling (R6, R8 to R11) -/

/-- TIMING settled by R8. -/
def settleTiming (t : Timing) : Timing where
  green := clamp t.green 10 60
  minRed := clamp t.minRed 10 100
  warn := clamp t.warn 0 600
  startRed := max (clamp t.startRed 10 300) (clamp t.minRed 10 100)
  closeGreen := clamp t.closeGreen 0 300

/-- The effective max rate: the lower of the settled maximum rate and what lanes, vehicles per green and timing permit
(R9 step 2). -/
def effectiveMax (maxRate lanes v green minRed : Nat) : Nat := min maxRate (36000 * lanes * v / (green + minRed))

/-- CONTROL settled by R9 under an effective max rate. -/
def settleControl (c : Control) (eff : Nat) : Control where
  target := clamp c.target 50 500
  gain := clamp c.gain 0 255
  minRate := min (clamp c.minRate 60 3600) eff
  maxRate := clamp c.maxRate 60 5400
  startRate := clamp (clamp c.startRate 60 5400) (min (clamp c.minRate 60 3600) eff) eff
  fallback := clamp (clamp c.fallback 60 5400) (min (clamp c.minRate 60 3600) eff) eff

/-- The effective max rate of a CONTROL section as written, under a layout and settled timing (R9). -/
def controlEffMax (c : Control) (lanes v green minRed : Nat) : Nat :=
  effectiveMax (clamp c.maxRate 60 5400) lanes v green minRed

/-- QUEUE settled by R10. -/
def settleQueue (q : QueueSection) : QueueSection where
  storage := clamp q.storage 5 250
  target := min q.target (clamp q.storage 5 250)
  dwell := clamp q.dwell 1 120
  flushHold := clamp q.flushHold 1 120
  emptyTime := clamp q.emptyTime 10 600

/-- The fields whose settled value differs from the value written, each once (R11). -/
def changedFields (l : List (PlanField × Nat × Nat)) : List PlanField :=
  (l.filter fun x => x.2.1 != x.2.2).map (·.1)

/-- The marks of the six CONTROL fields. -/
def controlMarks (w s : Control) : List (PlanField × Nat × Nat) :=
  [(.targetOcc, w.target, s.target), (.gain, w.gain, s.gain), (.minRate, w.minRate, s.minRate),
    (.maxRate, w.maxRate, s.maxRate), (.startRate, w.startRate, s.startRate), (.fallback, w.fallback, s.fallback)]

/-- A plan settled, with its effective max rate and its trimmed marks. -/
structure Settled where
  plan : Plan
  effMax : Nat
  marks : List PlanField
  deriving DecidableEq, Repr

/-- The plan an image gives ramp `n` once settled (R6, R8 to R11). -/
def settlePlan {m : Nat} (n : RampNo) (img : Table Byte m) : Settled :=
  let layout := readLayout n img
  let timing := settleTiming (rawTiming img)
  let raw := rawControl img 32
  let eff := controlEffMax raw layout.lanes layout.v timing.green timing.minRed
  let control := settleControl raw eff
  let queue := settleQueue (rawQueue img)
  { plan := ⟨layout, timing, control, queue⟩
    effMax := eff
    marks := changedFields ([(.v, byteAt img 2, layout.v), (.green, (rawTiming img).green, timing.green),
      (.minRed, (rawTiming img).minRed, timing.minRed), (.warn, (rawTiming img).warn, timing.warn),
      (.startRed, (rawTiming img).startRed, timing.startRed), (.closeGreen, (rawTiming img).closeGreen, timing.closeGreen)]
      ++ controlMarks raw control ++
      [(.storage, (rawQueue img).storage, queue.storage), (.queueTarget, (rawQueue img).target, queue.target),
        (.dwell, (rawQueue img).dwell, queue.dwell), (.flushHold, (rawQueue img).flushHold, queue.flushHold),
        (.emptyTime, (rawQueue img).emptyTime, queue.emptyTime)]) }

/-- An amendment settled against an installed plan (R17). -/
def settleAmendment (p : Plan) (raw : Control) (queueTarget : Nat) : Amendment :=
  let eff := controlEffMax raw p.layout.lanes p.layout.v p.timing.green p.timing.minRed
  let control := settleControl raw eff
  let target := min queueTarget p.queue.storage
  { control := control
    queueTarget := target
    effMax := eff
    marks := changedFields (controlMarks raw control ++ [(.queueTarget, queueTarget, target)]) }

/-- The image offset of a field's first byte (09 Plan image). -/
def PlanField.offset (f : PlanField) : Nat :=
  match f with
  | .v => 2
  | .green => 16
  | .minRed => 17
  | .warn => 18
  | .startRed => 20
  | .closeGreen => 22
  | .targetOcc => 32
  | .gain => 34
  | .minRate => 35
  | .maxRate => 37
  | .startRate => 39
  | .fallback => 41
  | .storage => 48
  | .queueTarget => 49
  | .dwell => 50
  | .flushHold => 51
  | .emptyTime => 52

/-- Every plan field in offset order. -/
def PlanField.all : List PlanField :=
  [.v, .green, .minRed, .warn, .startRed, .closeGreen, .targetOcc, .gain, .minRate, .maxRate, .startRate, .fallback,
    .storage, .queueTarget, .dwell, .flushHold, .emptyTime]

/-- The seven fields an amendment settles (R11, R17). -/
def PlanField.amendable (f : PlanField) : Bool :=
  match f with
  | .targetOcc | .gain | .minRate | .maxRate | .startRate | .fallback | .queueTarget => true
  | .v | .green | .minRed | .warn | .startRed | .closeGreen | .storage | .dwell | .flushHold | .emptyTime => false

/-- The marks after an amendment: those of its seven fields replaced, the others kept (R11). -/
def mergeMarks (old new : List PlanField) : List PlanField :=
  PlanField.all.filter fun f => if f.amendable then new.contains f else old.contains f

/-- Trimmed marks as a result: a count, then the offsets in ascending order (R141). -/
def marksBytes (marks : List PlanField) : List Byte :=
  BitVec.ofNat 8 marks.length :: marks.map fun f => BitVec.ofNat 8 f.offset

/-! ### The plan image written (R148) -/

/-- A channel field: the number, or 0xFF for absent. -/
def chanByte (c : Option Chan) : Byte :=
  match c with
  | some c => BitVec.ofNat 8 c.val
  | none => 0xFF

/-- The high byte of a two-byte number. -/
def hiByte (v : Nat) : Byte := BitVec.ofNat 8 (v / 256)
/-- The low byte of a number. -/
def loByte (v : Nat) : Byte := BitVec.ofNat 8 v

/-- The options byte: weights 1 STAGGERED, 2 auto-restore, 4 auto-open (R148). -/
def Layout.options (l : Layout) : Byte :=
  BitVec.ofNat 8 ((if l.order = .staggered then 1 else 0) + (if l.autoRestore then 2 else 0) +
    (if l.autoOpen then 4 else 0))

/-- The LAYOUT section. The mainline channels are written back where the image read had them, gaps and all: the manual gives their form
when read (R148), not when a list with gaps is written (log 48). -/
def Layout.bytes (l : Layout) : Table Byte 16 :=
  ⟨[loByte l.bound.val, loByte l.lanes, loByte l.v, l.options,
    chanByte (l.mainFields.get 0), chanByte (l.mainFields.get 1), chanByte (l.mainFields.get 2),
    chanByte (l.mainFields.get 3), chanByte l.entry, chanByte l.queueEnd,
    chanByte (l.demand.get 0), chanByte (l.passage.get 0), chanByte (l.demand.get 1), chanByte (l.passage.get 1),
    chanByte (l.demand.get 2), chanByte (l.passage.get 2)], rfl⟩

/-- The TIMING section; bytes with no field are 0 (R148). -/
def Timing.bytes (t : Timing) : Table Byte 16 :=
  ⟨[loByte t.green, loByte t.minRed, hiByte t.warn, loByte t.warn, hiByte t.startRed, loByte t.startRed,
    hiByte t.closeGreen, loByte t.closeGreen, 0, 0, 0, 0, 0, 0, 0, 0], rfl⟩

/-- The CONTROL section; bytes with no field are 0 (R148). -/
def Control.bytes (c : Control) : Table Byte 16 :=
  ⟨[hiByte c.target, loByte c.target, loByte c.gain, hiByte c.minRate, loByte c.minRate, hiByte c.maxRate,
    loByte c.maxRate, hiByte c.startRate, loByte c.startRate, hiByte c.fallback, loByte c.fallback, 0, 0, 0, 0, 0], rfl⟩

/-- The QUEUE section; bytes with no field are 0 (R148). -/
def QueueSection.bytes (q : QueueSection) : Table Byte 16 :=
  ⟨[loByte q.storage, loByte q.target, loByte q.dwell, loByte q.flushHold, hiByte q.emptyTime, loByte q.emptyTime,
    0, 0, 0, 0, 0, 0, 0, 0, 0, 0], rfl⟩

/-- The four sections of a plan. -/
def Plan.sections (p : Plan) : Table (Table Byte 16) 4 :=
  ⟨[p.layout.bytes, p.timing.bytes, p.control.bytes, p.queue.bytes], rfl⟩

/-- Sixteen bytes of an image from the section's start (09 Plan image). -/
def sectionBytes (img : Table Byte 64) (j : Fin 4) : Table Byte 16 :=
  Table.build 16 fun i => img.get ⟨16 * j.val + i.val, by omega⟩

/-- Four sections as one image of 64 bytes. -/
def joinSections (s : Table (Table Byte 16) 4) : Table Byte 64 :=
  Table.build 64 fun i => (s.get ⟨i.val / 16, by omega⟩).get ⟨i.val % 16, by omega⟩

/-- The 64-byte image of an installed plan. -/
def Plan.image (p : Plan) : Table Byte 64 := joinSections p.sections

/-- The image of a stage whose four sections are all filled (R4). -/
def stageImage (stage : Table (Option (Table Byte 16)) 4) : Option (Table Byte 64) :=
  match stage.get 0, stage.get 1, stage.get 2, stage.get 3 with
  | some a, some b, some c, some d => some (joinSections ⟨[a, b, c, d], rfl⟩)
  | _, _, _, _ => none

/-! ### Views of a plan -/

/-- The mainline channel list: the fields that are present, in position order (R148). -/
def Layout.mainline (l : Layout) : List Chan := l.mainFields.cells.filterMap id

/-- The (channel, kind) pairs a plan claims (R7). -/
def Layout.claims (l : Layout) : List (Chan × Kind) :=
  l.mainline.map (·, Kind.mainline) ++ (l.entry.toList.map (·, Kind.entry)) ++
    (l.queueEnd.toList.map (·, Kind.queueEnd)) ++ ((l.demand.cells.filterMap id).map (·, Kind.demand)) ++
    ((l.passage.cells.filterMap id).map (·, Kind.passage))

/-- The lane interval in ds for an applied rate (R76). -/
def Plan.interval (p : Plan) (rate : Nat) : Nat := ceilDiv (36000 * p.layout.lanes * p.layout.v) rate

/-- The intervals of lanes 1 to L for an applied rate (R76). -/
def Plan.intervals (p : Plan) (rate : Nat) : List Nat := List.replicate p.layout.lanes (p.interval rate)

end Sys2Proof.Machine
end

