-- ==== Sys2Proof/Machine/Flags.lean ====
section
/-! DEFINITION. The marks of a response (R139, R140), the priorities of the notices (10) and the views that the lines and
drives show: the NOTICE line (R154), aspects and drives (R109), proving mismatch (R118), beacons (R23). -/

namespace Sys2Proof.Machine

/-- The value of a status code (R140). -/
def Status.code (s : Status) : Byte :=
  match s with
  | .done => 0x00
  | .accepted => 0x01
  | .check => 0x80
  | .format => 0x81
  | .range => 0x82
  | .absent => 0x83
  | .state => 0x84
  | .authority => 0x85
  | .conflict => 0x86
  | .busy => 0x87
  | .staged => 0x88
  | .incomplete => 0x89
  | .guarded => 0x8A
  | .damaged => 0x8B
  | .link => 0x8C

/-- The flags byte: weights 1 notice pending, 2 overrun, 4 supervised, 8 TAKEOVER, 16 PERMIT (09 Formats). -/
def ResponseFlags.byte (f : ResponseFlags) : Byte :=
  BitVec.ofNat 8 ((if f.noticePending then 1 else 0) + (if f.overrun then 2 else 0) + (if f.supervised then 4 else 0) +
    (if f.takeover then 8 else 0) + (if f.permit then 16 else 0))

/-- The payload of a response: status, flags, echoed code, result (R139). -/
def Response.payload (r : Response) : List Byte := r.status.code :: r.flags.byte :: r.echo :: r.result

/-- The bytes a link sends for a response (R139, 09 Formats). -/
def Response.frame (r : Response) : List Byte := frameOf r.payload

/-! ### Notices -/

/-- The place of a kind in the list of kinds, from 0. -/
def NoticeKind.index (k : NoticeKind) : Fin 11 :=
  match k with
  | .lockout => 0
  | .permit => 1
  | .flush => 2
  | .detector => 3
  | .lamp => 4
  | .supervision => 5
  | .zone => 6
  | .rampState => 7
  | .store => 8
  | .sync => 9
  | .restore => 10

/-- The kinds in order of priority (10). -/
def NoticeKind.all : Table NoticeKind 11 :=
  ⟨[.lockout, .permit, .flush, .detector, .lamp, .supervision, .zone, .rampState, .store, .sync, .restore], rfl⟩

/-- The priority of a kind, 1 the highest (10). -/
def NoticeKind.priority (k : NoticeKind) : Nat := k.index.val + 1

/-- The number of subjects a kind has (10). -/
def NoticeKind.subjects (k : NoticeKind) : Nat :=
  match k with
  | .lockout => 16
  | .permit => 1
  | .flush => 16
  | .detector => 64
  | .lamp => 48
  | .supervision => 2
  | .zone => 6
  | .rampState => 16
  | .store => 24
  | .sync => 1
  | .restore => 1

/-- The order in which NOTICE QUERY gives records: by priority, then by subject (R152). -/
def noticeKey (k : NoticeKind) (subject : Nat) : Nat := k.priority * 256 + subject

/-- The number of a link as a notice subject and an index: 0 local, 1 centre (10, R142). -/
def linkIndex (l : Link) : Nat :=
  match l with
  | .loc => 0
  | .centre => 1

/-- Whether a link has unmasked a kind (R151). -/
def LinkCtx.shows (c : LinkCtx) (k : NoticeKind) : Bool := c.unmasked.get k.index

/-- The pending records whose kind is unmasked for the link (R151). -/
def LinkCtx.visible (c : LinkCtx) : List Notice := c.set.filter fun n => c.shows n.kind

/-- The notice pending mark: the link's set holds a record of an unmasked kind (R139, R154). -/
def LinkCtx.noticePending (c : LinkCtx) : Bool := c.set.any fun n => c.shows n.kind

/-- The NOTICE line: asserted while the local set holds an unmasked record, inactive while RESET is low (R154). -/
def State.noticeLine (s : State) : Bool := !s.resetHeld && s.loc.noticePending

/-! ### Heads and beacons -/

/-- The aspect a cycle state commands (R109). -/
def CycleState.aspect (c : CycleState) : Aspect :=
  match c with
  | .dark => .dark
  | .hold => .red
  | .ready => .red
  | .green => .green
  | .restGreen => .green

/-- The commanded aspect of a head (R109). -/
def Head.aspect (h : Head) : Aspect := h.cycle.aspect

/-- The class of mismatch that readings show against an aspect (R118). -/
def mismatchClass (a : Aspect) (red green : Bool) : Option FaultClass :=
  match a, red, green with
  | .red, true, false => none
  | .red, _, true => some .greenConflict
  | .red, false, false => some .redOut
  | .green, true, false => some .greenOut
  | .green, false, true => none
  | .green, true, true => some .greenConflict
  | .green, false, false => some .greenOut
  | .dark, true, false => some .strayRed
  | .dark, _, true => some .greenConflict
  | .dark, false, false => none

/-- The mismatch a head shows now (R118). -/
def Head.shown (h : Head) : Option FaultClass := mismatchClass h.aspect h.redProved h.greenProved

/-- The red drive of a head: inactive while RESET is low (R109). -/
def State.redDrive (s : State) (h : HeadNo) : Bool := !s.resetHeld && decide ((s.heads.get h).aspect = .red)

/-- The green drive of a head: inactive while RESET is low (R109). -/
def State.greenDrive (s : State) (h : HeadNo) : Bool := !s.resetHeld && decide ((s.heads.get h).aspect = .green)

/-- Whether a ramp's state lights its beacon (R23). -/
def Ramp.beaconLit (r : Ramp) : Bool :=
  match r.state with
  | .vacant => false
  | .parked => false
  | .opening => true
  | .metering => true
  | .flushing => true
  | .closing => decide (r.sub = some .settle)
  | .lockout => false

/-- The beacon output of a ramp: off while RESET is low (R23). -/
def State.beacon (s : State) (n : RampNo) : Bool := !s.resetHeld && (s.ramps.get n).beaconLit

end Sys2Proof.Machine
end

