-- ==== Sys2Proof/Machine/Ops.lean ====
section
/-! DEFINITION. The named operations over the records: one home for every read and write of a link, ramp, head, channel,
zone and slot; raising and clearing notices (R149, R150); writing a head with its proving (R119); taking a frame and forming
its response (R136, R138, R139). -/

namespace Sys2Proof.Machine

/-! ### Records -/

/-- A link's context. -/
def State.link (s : State) (l : Link) : LinkCtx :=
  match l with
  | .loc => s.loc
  | .centre => s.centre

/-- The state with one link's context replaced. -/
def State.setLink (s : State) (l : Link) (c : LinkCtx) : State :=
  match l with
  | .loc => { s with loc := c }
  | .centre => { s with centre := c }

/-- A ramp's record. -/
def State.ramp (s : State) (n : RampNo) : Ramp := s.ramps.get n
/-- The state with one ramp's record replaced. -/
def State.setRamp (s : State) (n : RampNo) (r : Ramp) : State := { s with ramps := s.ramps.set n r }
/-- The state with one ramp's record rewritten. -/
def State.modRamp (s : State) (n : RampNo) (f : Ramp → Ramp) : State := s.setRamp n (f (s.ramp n))

/-- A head's context. -/
def State.head (s : State) (h : HeadNo) : Head := s.heads.get h
/-- The state with one head's context replaced, its proving aside. -/
def State.setHead (s : State) (h : HeadNo) (c : Head) : State := { s with heads := s.heads.set h c }

/-- A channel's record. -/
def State.chan (s : State) (c : Chan) : Channel := s.chans.get c
/-- The state with one channel's record replaced. -/
def State.setChan (s : State) (c : Chan) (r : Channel) : State := { s with chans := s.chans.set c r }
/-- The state with one channel's record rewritten. -/
def State.modChan (s : State) (c : Chan) (f : Channel → Channel) : State := s.setChan c (f (s.chan c))

/-- A zone's record. -/
def State.zone (s : State) (z : ZoneNo) : Zone := s.zones.get z
/-- The state with one zone's record replaced. -/
def State.setZone (s : State) (z : ZoneNo) (r : Zone) : State := { s with zones := s.zones.set z r }

/-- A store slot. -/
def State.slot (s : State) (k : SlotNo) : Slot := s.slots.get k
/-- The state with one slot replaced. -/
def State.setSlot (s : State) (k : SlotNo) (r : Slot) : State := { s with slots := s.slots.set k r }

/-- An operation made for each ramp in ascending order. -/
def State.eachRamp (f : RampNo → State → State) (s : State) : State := (List.finRange 16).foldl (fun t n => f n t) s

/-- An operation made for each lane of a list in order. -/
def State.eachLane (lanes : List LaneNo) (f : LaneNo → State → State) (s : State) : State :=
  lanes.foldl (fun t k => f k t) s

/-! ### Notices (R149, R150) -/

/-- A raise entered into one pending set: a record added in its place by priority and subject, or the record present
updated and latched (R149). -/
def raiseInto (k : NoticeKind) (subject : Nat) (detail : Detail) (live : Bool) : List Notice → List Notice
  | [] => [⟨k, subject, false, live, detail⟩]
  | n :: rest =>
    if n.kind = k ∧ n.subject = subject then { n with detail := detail, live := live, latched := true } :: rest
    else if noticeKey k subject < noticeKey n.kind n.subject then ⟨k, subject, false, live, detail⟩ :: n :: rest
    else n :: raiseInto k subject detail live rest

/-- A live clear in one pending set (R150). -/
def liveClearIn (k : NoticeKind) (subject : Nat) (set : List Notice) : List Notice :=
  set.map fun n => if n.kind = k ∧ n.subject = subject then { n with live := false } else n

/-- A raise: entered into both links' pending sets (R149). -/
def State.raise (s : State) (k : NoticeKind) (subject : Nat) (detail : Detail) (live : Bool) : State :=
  { s with
    loc := { s.loc with set := raiseInto k subject detail live s.loc.set }
    centre := { s.centre with set := raiseInto k subject detail live s.centre.set } }

/-- A live clear: made in both links' pending sets (R150). -/
def State.liveClear (s : State) (k : NoticeKind) (subject : Nat) : State :=
  { s with
    loc := { s.loc with set := liveClearIn k subject s.loc.set }
    centre := { s.centre with set := liveClearIn k subject s.centre.set } }

/-- The RAMP STATE notice of a transition: the ramp's new state and the cause (R39). -/
def State.rampNotice (s : State) (n : RampNo) (cause : RampCause) : State :=
  s.raise .rampState n.val (.rampState (s.ramp n).state cause) false

/-! ### Heads and their proving (R109, R119) -/

/-- The mismatch timer and standing mark after a change of a head's aspect or readings (R119). -/
def Head.reprove (old new : Head) : Head :=
  match new.shown with
  | none => { new with mismatch := 0, standing := false }
  | some c => if old.shown ≠ some c ∨ old.aspect ≠ new.aspect then { new with mismatch := 0 } else new

/-- The fault that a head's proving now declares: its mismatch has lasted the tolerance and its class is not standing
(R119). -/
def Head.declares (h : Head) (tolerance : Nat) : Option FaultClass :=
  match h.shown with
  | none => none
  | some f => if tolerance ≤ h.mismatch ∧ ¬ (h.standing ∧ h.lastFault = some f) then some f else none

/-- The declaration that a timer at the tolerance brings is held until it is taken, whatever the aspect becomes meanwhile (R33,
R119, R120, log 30). -/
def Head.markDue (tolerance : Nat) (h : Head) : Head :=
  match h.declares tolerance with
  | none => h
  | some f => { h with due := some f }

/-- A head written with a new aspect or new readings: its proving follows, and the LAMP notice's live flag is cleared in
the event in which the standing mark is (R119, R120). -/
def State.writeHead (s : State) (h : HeadNo) (new : Head) : State :=
  let t := s.setHead h ((s.head h).reprove new)
  if (s.head h).standing ∧ ¬ ((s.head h).reprove new).standing then t.liveClear .lamp h.val else t

/-- A head taken to a cycle state (R109). -/
def State.setCycle (s : State) (h : HeadNo) (c : CycleState) : State := s.writeHead h { s.head h with cycle := c }

/-- The context of a head taken to DARK: a green in progress is cut short (R110). -/
def Head.darkened (h : Head) : Head :=
  match h.cycle with
  | .green => { h with cycle := .dark, sinceEnd := 0 }
  | .restGreen => { h with cycle := .dark, sinceEnd := 0 }
  | .dark => h
  | .hold => { h with cycle := .dark }
  | .ready => { h with cycle := .dark }

/-- A head taken to DARK (R110). -/
def State.darkenHead (s : State) (h : HeadNo) : State := s.writeHead h (s.head h).darkened

/-- The three heads of a ramp taken to DARK; those of lanes above L are DARK already (R109, R110). -/
def State.darken (s : State) (n : RampNo) : State :=
  s.eachLane (List.finRange 3) fun k t => t.darkenHead (headOf n k)

/-! ### Channel references (R14, R41) -/

/-- A channel's kind: the kind of its references, NONE when it has none (R41). -/
def Channel.kind (c : Channel) : Option Kind := c.refs.head?.map (·.2)

/-- A pair added at the end of a channel's list (R14, R41). -/
def Channel.claim (c : Channel) (who : Referencer) (k : Kind) : Channel :=
  { c with refs := c.refs ++ [(who, k)], refsChanged := true }

/-- A referencer's pairs removed wherever they stand (R14, R41). -/
def Channel.release (c : Channel) (who : Referencer) : Channel :=
  if c.refs.any fun p => decide (p.1 = who) then
    { c with refs := c.refs.filter fun p => decide (p.1 ≠ who), refsChanged := true }
  else c

/-- The pairs claimed one after the other for a referencer. -/
def State.claimAll (s : State) (who : Referencer) (claims : List (Chan × Kind)) : State :=
  claims.foldl (fun t p => t.modChan p.1 fun c => c.claim who p.2) s

/-- Every reference of a referencer removed (R3, R85). -/
def State.releaseAll (s : State) (who : Referencer) : State :=
  { s with chans := s.chans.map fun c => c.release who }

/-! ### Frames and responses (R136 to R139) -/

/-- A block's answer to a command: a status and a result (R137). -/
structure Reply where
  status : Status
  result : List Byte
  deriving DecidableEq, Repr

/-- DONE with an empty result. -/
def Reply.done : Reply := ⟨.done, []⟩
/-- DONE with a result. -/
def Reply.with (bytes : List Byte) : Reply := ⟨.done, bytes⟩
/-- A refusal: its status, with an empty result (R139). -/
def Reply.refuse (st : Status) : Reply := ⟨st, []⟩

/-- The flags of a response as they stand when it is formed (R139). -/
def State.flagsFor (s : State) (l : Link) : ResponseFlags where
  noticePending := (s.link l).noticePending
  overrun := (s.link l).overrun
  supervised := (s.link l).supervised
  takeover := s.takeover
  permit := s.permit

/-- A response formed: the link becomes REPLYING and its overrun flag is cleared (R137 to R139). -/
def State.respond (s : State) (l : Link) (code : Byte) (r : Reply) : State :=
  s.setLink l { s.link l with
    linkState := .replying
    overrun := false
    response := some ⟨r.status, s.flagsFor l, code, r.result⟩ }

/-- The link's part in a good frame: the receive frame is absent, the supervision timer restarts, the link is SUPERVISED
and EXECUTING (R130, R132, R136). -/
def State.goodFrame (s : State) (l : Link) : State :=
  let t := s.setLink l { s.link l with
    linkState := .executing
    rx := .absent
    gap := 0
    supervised := true
    supTimer := 0 }
  if (s.link l).supervised then t else t.liveClear .supervision (linkIndex l)

/-- A frame completed while its link is EXECUTING or REPLYING: discarded, the overrun flag set (R136, R138). -/
def State.overrunFrame (s : State) (l : Link) : State :=
  s.setLink l { s.link l with rx := .absent, gap := 0, overrun := true }

/-- Whether a link is EXECUTING or REPLYING. -/
def LinkCtx.busy (c : LinkCtx) : Bool :=
  match c.linkState with
  | .idle => false
  | .receiving => false
  | .executing => true
  | .replying => true

/-- A good frame that carries a command: taken by its owning block and answered, or discarded by overrun (R136 to R139).
While RESET is low no frame is taken (R135, R147). -/
def State.frame (s : State) (l : Link) (code : Byte) (run : State → State × Reply) : State :=
  if s.resetHeld then s
  else if (s.link l).busy then s.overrunFrame l
  else
    let out := run (s.goodFrame l)
    out.1.respond l code out.2

/-- An event of the part's own blocks or of a line that is not taken while RESET is low. -/
def State.running (s : State) (f : State → State) : State := if s.resetHeld then s else f s

end Sys2Proof.Machine
end

