-- ==== Sys2Proof/Machine/Queue.lean ====
section
/-! DEFINITION. The queue estimate and what moves it (06): the held channel health, the effective queue-end presence, the
queue hold, the flush exit. -/

namespace Sys2Proof.Machine

/-! ### The installed plan's parts, with a value for a VACANT ramp -/

/-- The storage capacity in force (R10). -/
def Ramp.capacity (r : Ramp) : Nat := (r.plan.map (·.queue.storage)).getD 0

/-- The lanes 1 to L of a ramp; none when VACANT. -/
def Ramp.lanes (r : Ramp) : List LaneNo := (r.plan.map Plan.laneList).getD []

/-- The interval in force on a lane (R76). -/
def Ramp.interval (r : Ramp) (k : LaneNo) : Nat := r.intervals.getD k.val 0

/-- The health the RPC holds for a channel: DISABLED until a report arrives (R98). -/
def Ramp.heldHealth (r : Ramp) (c : Chan) : Health := ((r.held.find? fun p => decide (p.1 = c)).map (·.2)).getD .disabled

/-- The entry channel named by the installed plan. -/
def Ramp.entryChan (r : Ramp) : Option Chan := r.plan.bind (·.layout.entry)

/-- The queue-end channel named by the installed plan. -/
def Ramp.queueEndChan (r : Ramp) : Option Chan := r.plan.bind (·.layout.queueEnd)

/-- The passage channel named for a lane. -/
def Ramp.passageChan (r : Ramp) (k : LaneNo) : Option Chan := r.plan.bind fun p => p.layout.passage.get k

/-- The demand channel named for a lane. -/
def Ramp.demandChan (r : Ramp) (k : LaneNo) : Option Chan := r.plan.bind fun p => p.layout.demand.get k

/-! ### The queue hold and the queue-end presence (R100, R101) -/

/-- The queue hold of a ramp with a plan: set unless the entry channel is held GOOD (R100). -/
def Ramp.holdDerived (r : Ramp) : Bool :=
  match r.entryChan with
  | none => true
  | some c => decide (r.heldHealth c ≠ .good)

/-- The effective queue-end presence (R101). -/
def Ramp.effPresence (r : Ramp) : Bool :=
  match r.queueEndChan with
  | none => false
  | some c =>
    match r.heldHealth c with
    | .settling | .good | .suspect => r.qeOn
    | .disabled | .failed => false

/-- The queue-end timers after a change of their inputs: both start from 0 when the effective presence changes (R101),
and a new run of presence has taken neither its dwell nor its alarm. -/
def Ramp.retime (old new : Ramp) : Ramp :=
  if old.effPresence = new.effPresence then new
  else { new with contOn := 0, contOff := 0, dwellTaken := false, alarmTaken := false }

/-- The continuous-on time is at least the queue dwell (R102). -/
def Ramp.dwellMet (r : Ramp) : Bool :=
  match r.plan with
  | none => false
  | some p => r.effPresence && decide (p.queue.dwell * 100 ≤ r.contOn)

/-! ### Moves of Q (R96 to R99) -/

/-- Q with a vehicle added, within the storage capacity (R97). -/
def Ramp.addVehicle (r : Ramp) : Ramp := { r with q := min (r.q + 1) r.capacity }

/-- Q with `v` vehicles taken off, not below 0 (R98, R99). -/
def Ramp.takeVehicles (r : Ramp) (v : Nat) : Ramp := { r with q := r.q - v }

/-- Lane `k` has a passage channel held GOOD (R98, R99). -/
def Ramp.passageGood (r : Ramp) (k : LaneNo) : Bool :=
  match r.passageChan k with
  | none => false
  | some c => decide (r.heldHealth c = .good)

/-! ### The flush exit (R105, R29) -/

/-- Both conditions of the flush exit hold (R105). -/
def Ramp.flushExitMet (r : Ramp) : Bool :=
  match r.plan with
  | none => false
  | some p => decide (r.state = .flushing) && decide (p.queue.flushHold * 100 ≤ r.contOff) && decide (r.q ≤ p.queue.target)

/-- The flush exit, when both its conditions hold: METERING, a RAMP STATE notice, the FLUSH notice's live flag cleared
(R29, R105, R106). -/
def State.tryFlushExit (s : State) (n : RampNo) : State :=
  if (s.ramp n).flushExitMet then
    ((s.modRamp n fun r => { r with state := .metering }).rampNotice n .flushEnded).liveClear .flush n.val
  else s

/-- A green start of lane `k` taken by the RPC: the fixed decrement of a lane with no GOOD passage channel, and the flush
exit it may bring (R32, R99, R105). -/
def State.takeGreenStart (s : State) (n : RampNo) (k : LaneNo) : State :=
  match (s.ramp n).plan with
  | none => s
  | some p =>
    if (s.ramp n).hold ∨ (s.ramp n).passageGood k then s
    else (s.modRamp n fun r => r.takeVehicles p.layout.v).tryFlushExit n

end Sys2Proof.Machine
end

