-- ==== Sys2Proof/Machine/Lanes.lean ====
section
/-! DEFINITION. The lane cycle (07): HOLD, READY and GREEN under the interval and the minimum red (R111), the release
conditions in both lane orders (R112 to R114), the green (R115), the demand of a lane (R108, R104). -/

namespace Sys2Proof.Machine

/-- The ramp's lanes cycle: METERING or FLUSHING (02, the states at a glance). -/
def Ramp.cycling (r : Ramp) : Bool := decide (r.state = .metering) || decide (r.state = .flushing)

/-- The ramp is CLOSING in the SETTLE sub-phase (R116). -/
def Ramp.settling (r : Ramp) : Bool := decide (r.state = .closing) && decide (r.sub = some .settle)

/-- The ramp is in OPENING, METERING, FLUSHING or CLOSING (R33, R37). -/
def Ramp.running (r : Ramp) : Bool :=
  match r.state with
  | .vacant => false
  | .parked => false
  | .opening => true
  | .metering => true
  | .flushing => true
  | .closing => true
  | .lockout => false

/-- The empty judgement no longer stands: one of its conditions has failed (R104). -/
def State.forgetEmpty (s : State) (n : RampNo) : State := s.modRamp n fun r => { r with emptyJudged := false }

/-! ### Comparisons -/

/-- The lane's demand health is GOOD (R112). -/
def Head.demandGood (h : Head) : Bool := decide (h.demandHealth = some .good)

/-- The release call: demand presence, or fixed-time release when the demand health is anything but GOOD (R112). -/
def Head.called (h : Head) : Bool := !h.demandGood || h.demandOn

/-- Interval and minimum red have passed; equality counts as met (R111). -/
def Head.ripe (h : Head) (interval minRed : Nat) : Bool := decide (interval ≤ h.sinceStart) && decide (minRed ≤ h.sinceEnd)

/-- At least floor(I / L) ds since the latest green start of any other lane (R113). -/
def State.spaced (s : State) (n : RampNo) (p : Plan) (k : LaneNo) : Bool :=
  p.laneList.all fun j =>
    decide (j = k) || decide ((s.ramp n).interval k / p.layout.lanes ≤ (s.head (headOf n j)).sinceStart)

/-- Lane `k` meets every release condition of STAGGERED order but the arbiter's grant (R112). -/
def State.releasable (s : State) (n : RampNo) (p : Plan) (k : LaneNo) : Bool :=
  decide ((s.head (headOf n k)).cycle = .ready) && (s.head (headOf n k)).called && s.spaced n p k

/-- The group of a TOGETHER ramp is READY (R114). -/
def State.groupReady (s : State) (n : RampNo) (p : Plan) : Bool :=
  p.laneList.all fun k => decide ((s.head (headOf n k)).cycle = .ready)

/-- The group of a TOGETHER ramp is called: by demand on a lane whose demand health is GOOD, or at once when no lane has
one (R114). -/
def State.groupCalled (s : State) (n : RampNo) (p : Plan) : Bool :=
  if p.laneList.any fun k => (s.head (headOf n k)).demandGood then
    p.laneList.any fun k => (s.head (headOf n k)).demandGood && (s.head (headOf n k)).demandOn
  else true

/-- The lanes that go GREEN now: the lowest-numbered releasable lane (R113), or the whole group (R114). -/
def State.lanesToRelease (s : State) (n : RampNo) (p : Plan) : List LaneNo :=
  match p.layout.order with
  | .staggered => (p.laneList.find? (s.releasable n p)).toList
  | .together => if s.groupReady n p && s.groupCalled n p then p.laneList else []

/-! ### Releases (R112 to R115) -/

/-- GREEN commanded on a head, the time since its last green start 0 (R115). -/
def State.lightGreen (s : State) (h : HeadNo) : State :=
  s.writeHead h { s.head h with cycle := .green, sinceStart := 0 }

/-- The green starts of the lanes of one release, each reported to the RPC (R114, R115). -/
def State.greenStarts (s : State) (n : RampNo) (lanes : List LaneNo) : State :=
  ((s.forgetEmpty n).eachLane lanes fun k t => t.lightGreen (headOf n k)).eachLane lanes fun k t => t.takeGreenStart n k

/-- The release that the conditions of R112 to R114 now allow, if any. Whichever event judges it, the lowest-numbered lane that meets
them goes GREEN, also one whose spacing ran out at this instant and whose own event has not been taken (R113, log 43). -/
def State.tryRelease (s : State) (n : RampNo) : State :=
  match (s.ramp n).plan with
  | none => s
  | some p =>
    if (s.ramp n).cycling && !(s.lanesToRelease n p).isEmpty then s.greenStarts n (s.lanesToRelease n p) else s

/-! ### The empty judgement (R104) -/

/-- Every lane is READY with a GOOD demand channel clear for the empty time (R104). -/
def State.emptyHolds (s : State) (n : RampNo) : Bool :=
  match (s.ramp n).plan with
  | none => false
  | some p =>
    (s.ramp n).cycling && p.laneList.all fun k =>
      decide ((s.head (headOf n k)).cycle = .ready) && (p.layout.demand.get k).isSome &&
        (s.head (headOf n k)).demandGood && decide (p.queue.emptyTime ≤ (s.head (headOf n k)).demandOff)

/-- The judgement is reported once each time its conditions come to hold together (R104). -/
def State.emptyDue (s : State) (n : RampNo) : Bool := s.emptyHolds n && !(s.ramp n).emptyJudged

/-- The RSQ reports the empty judgement, when its conditions have come to hold; it is in transit until the RPC takes it (R104,
log 17). -/
def State.reportEmpty (s : State) (n : RampNo) : State :=
  if s.emptyDue n then s.modRamp n fun r => { r with emptyJudged := true, emptyPending := true } else s

/-- A judgement is in transit, or its conditions have come to hold by the demand-off times (R104). -/
def State.judgementDue (s : State) (n : RampNo) : Bool := (s.ramp n).emptyPending || s.emptyDue n

/-- The RPC takes a judgement in transit: in METERING or FLUSHING Q is 0, whether or not the hold is set, and the flush may end; in
any other state it is disregarded (R104, R105). -/
def State.takeEmpty (s : State) (n : RampNo) : State :=
  if (s.ramp n).emptyPending then
    if (s.ramp n).cycling then (s.modRamp n fun r => { r with q := 0, emptyPending := false }).tryFlushExit n
    else s.modRamp n fun r => { r with emptyPending := false }
  else s

/-! ### HOLD and READY (R111) -/

/-- A lane's comparison with the interval in force: HOLD to READY, or READY back to HOLD (R111). -/
def State.judgeLane (s : State) (n : RampNo) (p : Plan) (k : LaneNo) : State :=
  match (s.head (headOf n k)).cycle with
  | .hold =>
    if (s.head (headOf n k)).ripe ((s.ramp n).interval k) p.timing.minRed then s.setCycle (headOf n k) .ready else s
  | .ready =>
    if (s.head (headOf n k)).sinceStart < (s.ramp n).interval k then (s.forgetEmpty n).setCycle (headOf n k) .hold else s
  | .dark => s
  | .green => s
  | .restGreen => s

/-- A new interval taken by the RSQ: every lane compared anew, then the release it may bring (R111, R113), and the empty judgement that
a lane becoming READY may bring (R104). -/
def State.takeInterval (s : State) (n : RampNo) : State :=
  match (s.ramp n).plan with
  | none => s
  | some p =>
    if (s.ramp n).cycling then ((s.eachLane p.laneList fun k t => t.judgeLane n p k).tryRelease n).reportEmpty n else s

/-- The lanes that a lane event concerns: the lane itself, or the whole group in TOGETHER order (R114). -/
def Plan.lanesWith (p : Plan) (k : LaneNo) : List LaneNo :=
  match p.layout.order with
  | .staggered => [k]
  | .together => p.laneList

/-- Lane `k` is in HOLD with interval and minimum red passed, on a ramp whose lanes move (R111, R116). -/
def State.laneReadyDue (s : State) (n : RampNo) (k : LaneNo) : Bool :=
  match (s.ramp n).plan with
  | none => false
  | some p =>
    ((s.ramp n).cycling || (s.ramp n).settling) && decide (k ∈ p.laneList) &&
      decide ((s.head (headOf n k)).cycle = .hold) &&
      (s.head (headOf n k)).ripe ((s.ramp n).interval k) p.timing.minRed

/-- A lane becomes READY, with the release that may follow in the same event (R111, R112, R114), and the empty judgement that it may
bring (R104). -/
def State.laneBecomesReady (s : State) (n : RampNo) (k : LaneNo) : State :=
  match (s.ramp n).plan with
  | none => s
  | some p => ((s.eachLane (p.lanesWith k) fun j t => t.judgeLane n p j).tryRelease n).reportEmpty n

/-- A READY, called lane of a STAGGERED ramp whose spacing has run out (R113). -/
def State.spacingDue (s : State) (n : RampNo) (k : LaneNo) : Bool :=
  match (s.ramp n).plan with
  | none => false
  | some p =>
    (s.ramp n).cycling && decide (p.layout.order = .staggered) && decide (k ∈ p.laneList) && s.releasable n p k

/-! ### The end of a green (R115) -/

/-- The lane is GREEN and its green time has run (R115). -/
def Head.greenRun (h : Head) (green : Nat) : Bool := decide (h.cycle = .green) && decide (green ≤ h.sinceStart)

/-- Lane `k`'s green ends now. -/
def State.greenEndDue (s : State) (n : RampNo) (k : LaneNo) : Bool :=
  match (s.ramp n).plan with
  | none => false
  | some p => decide (k ∈ p.laneList) && (s.head (headOf n k)).greenRun p.timing.green

/-- A green that has run ends: HOLD, RED commanded, the time since the last green end 0 (R115). -/
def State.finishGreen (s : State) (n : RampNo) (p : Plan) (k : LaneNo) : State :=
  if (s.head (headOf n k)).greenRun p.timing.green then
    s.writeHead (headOf n k) { s.head (headOf n k) with cycle := .hold, sinceEnd := 0 }
  else s

/-- The green end of a lane, or of the group in TOGETHER order (R114, R115). -/
def State.endGreens (s : State) (n : RampNo) (k : LaneNo) : State :=
  match (s.ramp n).plan with
  | none => s
  | some p => s.eachLane (p.lanesWith k) fun j t => t.finishGreen n p j

/-! ### Demand (R108, R104) -/

/-- The demand fields of a lane whose demand channel has reported nothing (R108). -/
def Head.clearDemand (h : Head) : Head :=
  { h with demandOn := false, demandHealth := none, demandOff := 0, demandTimed := false }

/-- A demand on or demand off report of lane `k`; the release it may bring is judged after it (R104, R108). -/
def State.takeDemand (s : State) (n : RampNo) (k : LaneNo) (on : Bool) : State :=
  let h := s.head (headOf n k)
  if on then
    (s.setHead (headOf n k) { h with demandOn := true, demandOff := 0 }).forgetEmpty n
  else s.setHead (headOf n k) { h with demandOn := false, demandOff := 0, demandTimed := true }

/-- A health report of lane `k`'s demand channel: the demand-off time runs afresh from a report of GOOD; the release it may bring
is judged after it (R104, R108). -/
def State.takeDemandHealth (s : State) (n : RampNo) (k : LaneNo) (health : Health) : State :=
  let h := s.head (headOf n k)
  if health = .good then
    s.setHead (headOf n k) { h with demandHealth := some .good, demandOff := 0, demandTimed := true }
  else
    (s.setHead (headOf n k) { h with demandHealth := some health }).forgetEmpty n

end Sys2Proof.Machine
end

