-- ==== Sys2Proof/Machine/RampOps.lean ====
section
/-! DEFINITION. The transitions of a ramp, each once: installing a plan or an amendment (R13, R15, R16, R18), opening (R24
to R26), flushing (R28, R102), closing (R30, R31, R116, R117), lockout (R33), parking and reaching VACANT (R3, R36, R86). -/

namespace Sys2Proof.Machine

/-! ### Rates (R20, R76) -/

/-- The applied rate written with its lane intervals (R20, R76). -/
def Ramp.writeApplied (r : Ramp) (p : Plan) (rate : Nat) (why : Limiting) : Ramp :=
  { r with applied := rate, limiting := some why, intervals := p.intervals rate }

/-- The start rate as applied and computed rate, limiting term START (R13, R15, R26). -/
def Ramp.startRates (r : Ramp) (p : Plan) : Ramp :=
  { r.writeApplied p p.control.startRate .start with computed := p.control.startRate }

/-- The effective max rate as applied rate, limiting term FLUSH (R28, R18). -/
def Ramp.flushRates (r : Ramp) (p : Plan) : Ramp := r.writeApplied p (r.effMax.getD 0) .flush

/-! ### Amendments (R18) -/

/-- The plan with an amendment's seven fields (R18). -/
def Plan.amended (p : Plan) (a : Amendment) : Plan :=
  { p with control := a.control, queue := { p.queue with target := a.queueTarget } }

/-- The pending amendment installed, when there is one (R18, R11). -/
def Ramp.installAmendment (r : Ramp) : Ramp :=
  match r.amendment, r.plan with
  | some a, some p =>
    { r with
      plan := some (p.amended a)
      effMax := some a.effMax
      trimmed := mergeMarks r.trimmed a.marks
      amendment := none }
  | some _, none => { r with amendment := none }
  | none, _ => r

/-- The part of every transition that ends a running state: a pending amendment is installed (R18), the FLUSH notice's live
flag is cleared on leaving FLUSHING (R106), the empty judgement is forgotten (R104). -/
def State.leaveRunning (s : State) (n : RampNo) : State :=
  let t := s.modRamp n fun r => { r.installAmendment with emptyJudged := false }
  if (s.ramp n).state = .flushing then t.liveClear .flush n.val else t

/-! ### PARKED and VACANT -/

/-- A running or locked ramp enters PARKED: heads DARK, sub-phase and its timer discarded, the stopped cause written, a
RAMP STATE notice (R19, R27, R31, R34, R37). -/
def State.park (s : State) (n : RampNo) (stop : StopCause) (cause : RampCause) : State :=
  ((s.darken n).modRamp n fun r =>
    { r with state := .parked, sub := none, subTimer := 0, closeTimer := 0, stopped := some stop }).rampNotice n cause

/-- A zone without a ramp: its member entry, pending weight changes and pending addition removed (R86). An amendment left with
no content stays pending (log 32). -/
def Zone.dropRamp (z : Zone) (n : RampNo) : Zone :=
  { z with
    members := z.members.filter fun m => decide (m.1 ≠ n)
    amendment := z.amendment.map fun a =>
      { a with
        weights := a.weights.filter fun m => decide (m.1 ≠ n)
        additions := a.additions.filter fun m => decide (m.1 ≠ n) } }

/-- The demand fields of a ramp's three heads cleared: no copy names a channel (R108). -/
def State.clearDemands (s : State) (n : RampNo) : State :=
  s.eachLane (List.finRange 3) fun k t => t.setHead (headOf n k) (t.head (headOf n k)).clearDemand

/-- A ramp reaches VACANT: the record of R3, its channel references and memberships removed, its heads DARK, a RAMP STATE
notice (R3, R14, R36, R86). -/
def State.vacate (s : State) (n : RampNo) (cause : RampCause) : State :=
  let t := (((s.darken n).clearDemands n).setRamp n Ramp.vacantRecord).releaseAll (.ramp n)
  { t with zones := t.zones.map fun z => z.dropRamp n }.rampNotice n cause

/-! ### Installing a plan (R13, R15, R16) -/

/-- The record a new plan gives a VACANT ramp (R13). -/
def Ramp.installed (set : Settled) (stop : StopCause) : Ramp :=
  { Ramp.vacantRecord.startRates set.plan with
    state := .parked
    plan := some set.plan
    effMax := some set.effMax
    trimmed := set.marks
    hold := true
    stopped := some stop
    held := set.plan.layout.claims.map fun c => (c.1, .disabled) }

/-- A settled plan installed in a VACANT ramp, without its notice (R13, R14, R108, R110). -/
def State.installNew (s : State) (n : RampNo) (set : Settled) (stop : StopCause) : State :=
  (((s.darken n).clearDemands n).setRamp n (Ramp.installed set stop)).claimAll (.ramp n) set.plan.layout.claims

/-- The pair of one referencer and kind removed from a channel's list (R16). -/
def Channel.releaseKind (c : Channel) (who : Referencer) (k : Kind) : Channel :=
  { c with refs := c.refs.filter fun p => decide (p ≠ (who, k)), refsChanged := true }

/-- The old claims reconciled with the new ones (R16). -/
def State.reconcile (s : State) (n : RampNo) (old new : List (Chan × Kind)) : State :=
  let t := (old.filter fun c => !new.contains c).foldl (fun t p => t.modChan p.1 fun c => c.releaseKind (.ramp n) p.2) s
  t.claimAll (.ramp n) (new.filter fun c => !old.contains c)

/-- The health held for each channel of the new plan: kept where the claim is kept, DISABLED where it is new (R98). -/
def Ramp.heldAfter (r : Ramp) (old new : List (Chan × Kind)) : List (Chan × Health) :=
  new.map fun c => (c.1, if old.contains c then r.heldHealth c.1 else .disabled)

/-- The demand fields a lane takes over from the lane that named its channel before (R108). -/
def carryDemand (oldHeads : LaneNo → Head) (old new : Table (Option Chan) 3) (k : LaneNo) (h : Head) : Head :=
  match new.get k with
  | none => h.clearDemand
  | some c =>
    match (List.finRange 3).find? fun j => decide (old.get j = some c) with
    | none => h.clearDemand
    | some j =>
      { h with
        demandOn := (oldHeads j).demandOn
        demandHealth := (oldHeads j).demandHealth
        demandOff := (oldHeads j).demandOff
        demandTimed := (oldHeads j).demandTimed }

/-- The record after REPLACE PLAN (R15, R16). With the queue-end channel kept, the run of presence goes on: a lowered dwell that
it has already lasted falls due at once, and a raised one that it has not is reached anew (log 16). -/
def Ramp.replaced (r : Ramp) (old : Plan) (set : Settled) : Ramp :=
  let sameEnd := decide (old.layout.queueEnd = set.plan.layout.queueEnd)
  let t : Ramp := { r with
    plan := some set.plan
    effMax := some set.effMax
    trimmed := set.marks
    q := min r.q set.plan.queue.storage
    held := r.heldAfter old.layout.claims set.plan.layout.claims
    qeOn := sameEnd && r.qeOn
    contOn := if sameEnd then r.contOn else 0
    contOff := if sameEnd then r.contOff else 0
    dwellTaken := sameEnd && r.dwellTaken && decide (set.plan.queue.dwell * 100 ≤ r.contOn)
    alarmTaken := sameEnd && r.alarmTaken }
  { t.startRates set.plan with hold := t.holdDerived }

/-- The plan of a PARKED ramp swapped (R15, R16, R108, R110). -/
def State.replacePlan (s : State) (n : RampNo) (old : Plan) (set : Settled) : State :=
  let t := ((s.darken n).modRamp n fun r => r.replaced old set).reconcile n old.layout.claims set.plan.layout.claims
  t.eachLane (List.finRange 3) fun k u =>
    u.setHead (headOf n k)
      (carryDemand (fun j => s.head (headOf n j)) old.layout.demand set.plan.layout.demand k (u.head (headOf n k)))

/-! ### Opening (R24 to R26) -/

/-- The heads of lanes 1 to L taken to one cycle state. -/
def State.setLanes (s : State) (n : RampNo) (p : Plan) (c : CycleState) : State :=
  s.eachLane p.laneList fun k t => t.setCycle (headOf n k) c

/-- The sub-phase becomes START-RED: timer 0, RED on lanes 1 to L (R25, R26, R110). -/
def State.enterStartRed (s : State) (n : RampNo) (p : Plan) : State :=
  (s.modRamp n fun r => { r with sub := some .startRed, subTimer := 0 }).setLanes n p .hold

/-- A PARKED ramp enters OPENING: WARN, or START-RED at once when the warn time is 0 (R24, R110). -/
def State.enterOpening (s : State) (n : RampNo) (p : Plan) : State :=
  let t := s.modRamp n fun r => { r with state := .opening, sub := some .warn, subTimer := 0 }
  if p.timing.warn = 0 then t.enterStartRed n p else t

/-- The queue alarm of a METERING ramp: Q at capacity, FLUSHING at the effective max rate, the FLUSH notice (R28, R39, R102,
R106). -/
def State.takeAlarm (s : State) (n : RampNo) (p : Plan) : State :=
  let t := s.modRamp n fun r =>
    { r.flushRates p with state := .flushing, q := p.queue.storage, dwellTaken := true, alarmTaken := true }
  (t.raise .flush n.val (.flush .flushing .queueAlarm p.layout.queueEnd p.queue.dwell (s.ramp n).q p.queue.storage)
    true).takeInterval n

/-- A head as METERING begins: both timers at 6000 ds, READY (R26, R110). -/
def Head.fresh (h : Head) : Head := { h with cycle := .ready, sinceStart := 6000, sinceEnd := 6000 }

/-- The dwell is met and this run of presence has not brought the alarm, which it brings once (R102). -/
def Ramp.alarmMet (r : Ramp) : Bool := r.dwellMet && !r.alarmTaken

/-- START-RED ends: METERING at the start rate, every lane READY, the RAMP STATE notice, the first release, the empty judgement that
READY lanes may bring, and the queue alarm when the dwell is already met (R26, R102, R104, R110, log 16). -/
def State.enterMetering (s : State) (n : RampNo) (p : Plan) : State :=
  let t := s.modRamp n fun r =>
    { r.startRates p with state := .metering, sub := none, subTimer := 0, emptyJudged := false }
  let u := t.eachLane p.laneList fun k t => t.writeHead (headOf n k) (t.head (headOf n k)).fresh
  let v := ((u.rampNotice n .startRedEnded).tryRelease n).reportEmpty n
  if (v.ramp n).state = .metering ∧ (v.ramp n).alarmMet then v.takeAlarm n p else v

/-! ### Closing (R30, R31, R116, R117) -/

/-- CLOSING ends: heads DARK, then PARKED with stopped cause CLOSED, or VACANT when retire pending is set (R31, R36). -/
def State.endClosing (s : State) (n : RampNo) : State :=
  if (s.ramp n).retirePending then s.vacate n .closingEnded else s.park n .closed .closingEnded

/-- A head as the steady green begins (R117). -/
def Head.resting (h : Head) : Head := { h with cycle := .restGreen, sinceStart := 0 }

/-- SETTLE ends: the GREEN sub-phase, or the end of CLOSING when the close green is 0 (R30, R117). -/
def State.endSettle (s : State) (n : RampNo) (p : Plan) : State :=
  if p.timing.closeGreen = 0 then s.endClosing n
  else
    (s.modRamp n fun r => { r with sub := some .green, closeTimer := 0 }).eachLane p.laneList fun k t =>
      t.writeHead (headOf n k) (t.head (headOf n k)).resting

/-- The lane is in HOLD or READY and has been RED for the minimum red (R116). -/
def Head.settled (h : Head) (minRed : Nat) : Bool :=
  (decide (h.cycle = .hold) || decide (h.cycle = .ready)) && decide (minRed ≤ h.sinceEnd)

/-- The RSQ judges the ramp settled (R30, R116). -/
def State.settledDue (s : State) (n : RampNo) : Bool :=
  match (s.ramp n).plan with
  | none => false
  | some p => (s.ramp n).settling && p.laneList.all fun k => (s.head (headOf n k)).settled p.timing.minRed

/-- The settled report, when the ramp is settled (R30, R32). -/
def State.trySettle (s : State) (n : RampNo) : State :=
  match (s.ramp n).plan with
  | none => s
  | some p => if s.settledDue n then s.endSettle n p else s

/-- A METERING or FLUSHING ramp enters CLOSING in SETTLE, and passes through SETTLE in the same event when it is settled
already (R27, R30, R35). -/
def State.enterClosing (s : State) (n : RampNo) (retire : Bool) (cause : RampCause) : State :=
  let t := (s.leaveRunning n).modRamp n fun r =>
    { r with state := .closing, sub := some .settle, retirePending := r.retirePending || retire }
  (t.rampNotice n cause).trySettle n

/-! ### Lockout and PERMIT (R33, R37) -/

/-- The LOCKOUT notice of a fault on a head of the ramp, at its LOCKOUT and at each further fault in it (R33, R34, R39, log 31). -/
def State.lockoutNotice (s : State) (n : RampNo) (h : HeadNo) (fault : FaultClass) : State :=
  s.raise .lockout n.val (.lockout .lockout .provingFault h fault) false

/-- A running ramp enters LOCKOUT: heads DARK, sub-phase discarded, amendment installed, the LOCKOUT notice (R33). -/
def State.enterLockout (s : State) (n : RampNo) (h : HeadNo) (fault : FaultClass) : State :=
  (((s.leaveRunning n).darken n).modRamp n fun r =>
    { r with state := .lockout, sub := none, subTimer := 0, closeTimer := 0 }).lockoutNotice n h fault

/-- A ramp as the loss of PERMIT leaves it (R37). -/
def State.permitStops (s : State) (n : RampNo) : State :=
  if (s.ramp n).running then
    let t := s.leaveRunning n
    if (s.ramp n).retirePending then t.vacate n .permitLost else t.park n .permit .permitLost
  else s

end Sys2Proof.Machine
end

