-- ==== Sys2Proof/Machine/RampCommands.lean ====
section
/-! DEFINITION. The ramp commands of 01 and 02: COMMISSION, REPLACE PLAN, AMEND, RETIRE, OPEN, CLOSE, CLEAR LOCKOUT. -/

namespace Sys2Proof.Machine

/-- The authority check: NONE, or the link that sent the command (R122). -/
def Ramp.allows (r : Ramp) (l : Link) : Bool :=
  match r.authority with
  | none => true
  | some a => decide (a = l)

/-- A ramp command after its first check, the ramp number (R12, R17, R24, R27, R34, R35, R123, R127). -/
def State.onRamp (s : State) (ramp : Byte) (f : RampNo → State × Reply) : State × Reply :=
  match rampArg ramp with
  | none => (s, .refuse .range)
  | some n => f n

/-- A ramp command after the refusal of a VACANT ramp with ABSENT; a ramp that is not VACANT has a plan (R3). -/
def State.onPlan (s : State) (ramp : Byte) (f : RampNo → Plan → State × Reply) : State × Reply :=
  s.onRamp ramp fun n =>
    match (s.ramp n).state, (s.ramp n).plan with
    | .vacant, _ => (s, .refuse .absent)
    | _, none => (s, .refuse .absent)
    | _, some p => f n p

/-! ### The source of a plan and its checks (R4, R5, R7, R12) -/

/-- What a read of a slot gives: the image, or the refusal; a VALID slot whose check fails becomes DAMAGED in the event of
the read (R157). -/
def State.readSlot (s : State) (k : SlotNo) : State × Except Status (Table Byte 64) :=
  match (s.slot k).state with
  | .empty => (s, .error .absent)
  | .damaged => (s, .error .damaged)
  | .valid =>
    if (s.slot k).agrees then (s, .ok (s.slot k).image)
    else (s.setSlot k { s.slot k with state := .damaged }, .error .damaged)

/-- The slot is the one being written or erased (R158). -/
def State.slotInFlight (s : State) (k : SlotNo) : Bool :=
  match s.store with
  | none => false
  | some b => decide (b.slot = k)

/-- The image that COMMISSION or REPLACE PLAN names: source 0 the stage, 1 a slot (R12 step 4, R141). -/
def State.planSource (s : State) (source slot : Byte) : State × Except Status (Table Byte 64) :=
  if source = 0 then
    match stageImage s.stage with
    | none => (s, .error .incomplete)
    | some img => (s, .ok img)
  else if source = 1 then
    match slotArg slot with
    | none => (s, .error .range)
    | some k => if s.slotInFlight k then (s, .error .busy) else s.readSlot k
  else (s, .error .range)

/-- A claim conflicts with the references another referencer holds (R7, second and third case). -/
def Channel.refuses (c : Channel) (who : Referencer) (k : Kind) : Bool :=
  c.refs.any fun p => decide (p.1 ≠ who) &&
    (decide (p.2 ≠ k) ||
      (decide (k ≠ .mainline) && match p.1 with
        | .ramp _ => true
        | .zone _ => false))

/-- No item occurs twice. -/
def noRepeat {α : Type} [DecidableEq α] : List α → Bool
  | [] => true
  | a :: rest => !rest.contains a && noRepeat rest

/-- The conflict checks of R7 for a ramp's claims. One channel named as the demand channel, or as the passage channel, of two lanes
of the plan is refused as two roles (log 53). -/
def State.conflicts (s : State) (n : RampNo) (claims : List (Chan × Kind)) : Bool :=
  !noRepeat (claims.map (·.1)) || claims.any fun c => (s.chan c.1).refuses (.ramp n) c.2

/-- Steps 5 and 6 of R12 for an image and a ramp: the settled plan, or the refusal. -/
def State.checkPlan (s : State) (n : RampNo) (img : Table Byte 64) : Except Status Settled :=
  if !structureOk n img then .error .range
  else if s.conflicts n (settlePlan n img).plan.layout.claims then .error .conflict
  else .ok (settlePlan n img)

/-- Steps 4 to 6 of R12 and the installation. -/
def State.withPlan (s : State) (n : RampNo) (source slot : Byte) (f : State → Settled → State) : State × Reply :=
  match s.planSource source slot with
  | (t, .error st) => (t, .refuse st)
  | (t, .ok img) =>
    match t.checkPlan n img with
    | .error st => (t, .refuse st)
    | .ok set => (f t set, .with (marksBytes set.marks))

/-! ### COMMISSION and REPLACE PLAN (R12 to R16) -/

/-- COMMISSION at its owning block (R12, R13). -/
def State.commission (s : State) (ramp source slot : Byte) : State × Reply :=
  s.onRamp ramp fun n =>
    if (s.ramp n).state ≠ .vacant then (s, .refuse .state)
    else s.withPlan n source slot fun t set => (t.installNew n set .command).rampNotice n .commission

/-- COMMISSION (R12, R13). -/
def execCommission (l : Link) (ramp source slot : Byte) (s : State) : Host.Outcome State Fault Refusal :=
  .next (s.frame l 0x11 fun t => t.commission ramp source slot)

/-- REPLACE PLAN at its owning block (R12, R15, R16). -/
def State.replace (s : State) (l : Link) (ramp source slot : Byte) : State × Reply :=
  s.onPlan ramp fun n p =>
    if (s.ramp n).state ≠ .parked then (s, .refuse .state)
    else if !(s.ramp n).allows l then (s, .refuse .authority)
    else s.withPlan n source slot fun t set => t.replacePlan n p set

/-- REPLACE PLAN (R12, R15, R16). -/
def execReplacePlan (l : Link) (ramp source slot : Byte) (s : State) : Host.Outcome State Fault Refusal :=
  .next (s.frame l 0x12 fun t => t.replace l ramp source slot)

/-! ### AMEND (R17, R18) -/

/-- The record with an accepted amendment: held while the ramp is METERING or FLUSHING, installed at once otherwise
(R17). -/
def Ramp.amend (r : Ramp) (a : Amendment) : Ramp :=
  let held := { r with amendment := some a }
  if r.cycling then held else held.installAmendment

/-- AMEND at its owning block (R17). -/
def State.amend (s : State) (l : Link) (ramp : Byte) (control : Table Byte 16) (target : Byte) : State × Reply :=
  s.onPlan ramp fun n p =>
    if (s.ramp n).state = .lockout then (s, .refuse .state)
    else if !(s.ramp n).allows l then (s, .refuse .authority)
    else
      let a := settleAmendment p (rawControl control 0) target.toNat
      (s.modRamp n fun r => r.amend a, .with (marksBytes a.marks))

/-- AMEND (R17, R18). -/
def execAmend (l : Link) (ramp : Byte) (control : Table Byte 16) (target : Byte) (s : State) :
    Host.Outcome State Fault Refusal :=
  .next (s.frame l 0x13 fun t => t.amend l ramp control target)

/-! ### RETIRE, OPEN, CLOSE, CLEAR LOCKOUT (R24, R27, R34, R35) -/

/-- RETIRE at its owning block (R35). -/
def State.retire (s : State) (l : Link) (ramp : Byte) : State × Reply :=
  s.onPlan ramp fun n _ =>
    if !(s.ramp n).allows l then (s, .refuse .authority)
    else
      match (s.ramp n).state with
      | .vacant => (s, .refuse .absent)
      | .parked => (s.vacate n .retire, .done)
      | .lockout => (s.vacate n .retire, .done)
      | .opening => (s.vacate n .retire, .done)
      | .metering => (s.enterClosing n true .retire, .done)
      | .flushing => (s.enterClosing n true .retire, .done)
      | .closing => (s.modRamp n fun r => { r with retirePending := true }, .done)

/-- RETIRE (R35). -/
def execRetire (l : Link) (ramp : Byte) (s : State) : Host.Outcome State Fault Refusal :=
  .next (s.frame l 0x14 fun t => t.retire l ramp)

/-- OPEN at its owning block (R24). -/
def State.openCommand (s : State) (l : Link) (ramp : Byte) : State × Reply :=
  s.onPlan ramp fun n p =>
    match (s.ramp n).state with
    | .vacant => (s, .refuse .absent)
    | .closing => (s, .refuse .state)
    | .lockout => (s, .refuse .state)
    | .parked =>
      if !(s.ramp n).allows l then (s, .refuse .authority)
      else if !s.permit then (s, .refuse .state)
      else ((s.enterOpening n p).rampNotice n .opened, .done)
    | .opening => if (s.ramp n).allows l then (s, .done) else (s, .refuse .authority)
    | .metering => if (s.ramp n).allows l then (s, .done) else (s, .refuse .authority)
    | .flushing => if (s.ramp n).allows l then (s, .done) else (s, .refuse .authority)

/-- OPEN (R24). -/
def execOpenRamp (l : Link) (ramp : Byte) (s : State) : Host.Outcome State Fault Refusal :=
  .next (s.frame l 0x15 fun t => t.openCommand l ramp)

/-- CLOSE at its owning block (R27). -/
def State.closeCommand (s : State) (l : Link) (ramp : Byte) : State × Reply :=
  s.onPlan ramp fun n _ =>
    if (s.ramp n).state = .lockout then (s, .refuse .state)
    else if !(s.ramp n).allows l then (s, .refuse .authority)
    else
      match (s.ramp n).state with
      | .vacant => (s, .refuse .absent)
      | .lockout => (s, .refuse .state)
      | .parked => (s, .done)
      | .closing => (s, .done)
      | .opening => ((s.leaveRunning n).park n .command .close, .done)
      | .metering => (s.enterClosing n false .close, .done)
      | .flushing => (s.enterClosing n false .close, .done)

/-- CLOSE (R27). -/
def execCloseRamp (l : Link) (ramp : Byte) (s : State) : Host.Outcome State Fault Refusal :=
  .next (s.frame l 0x16 fun t => t.closeCommand l ramp)

/-- A head of lanes 1 to L has its red or its green proved, against its commanded DARK aspect (R34 check 5). -/
def State.lampsProved (s : State) (n : RampNo) (p : Plan) : Bool :=
  p.laneList.any fun k => (s.head (headOf n k)).redProved || (s.head (headOf n k)).greenProved

/-- CLEAR LOCKOUT at its owning block (R34). -/
def State.clearLockout (s : State) (l : Link) (ramp : Byte) : State × Reply :=
  s.onPlan ramp fun n p =>
    if (s.ramp n).state ≠ .lockout then (s, .refuse .state)
    else if !(s.ramp n).allows l then (s, .refuse .authority)
    else if s.lampsProved n p then (s, .refuse .conflict)
    else if (s.ramp n).retirePending then (s.vacate n .clearLockout, .done)
    else (s.park n .command .clearLockout, .done)

/-- CLEAR LOCKOUT (R34). -/
def execClearLockout (l : Link) (ramp : Byte) (s : State) : Host.Outcome State Fault Refusal :=
  .next (s.frame l 0x17 fun t => t.clearLockout l ramp)

end Sys2Proof.Machine
end

