-- ==== Sys2Proof/Machine/Authority.lean ====
section
/-! DEFINITION. Authority and override (08): TAKE and YIELD AUTHORITY, the TAKEOVER line, OVERRIDE, END OVERRIDE, the
override's expiry. -/

namespace Sys2Proof.Machine

/-- The outcomes of TAKE and YIELD AUTHORITY in the order of their bytes (R141). -/
inductive AuthorityOutcome where
  | vacant
  | granted
  | held
  | refused
  | yielded
  | none
  | other
  deriving DecidableEq, Repr

/-- The outcome byte (R141). -/
def AuthorityOutcome.byte (o : AuthorityOutcome) : Byte :=
  match o with
  | .vacant => 0
  | .granted => 1
  | .held => 2
  | .refused => 3
  | .yielded => 4
  | .none => 5
  | .other => 6

/-! ### TAKE AUTHORITY (R123, R124) -/

/-- The override ended when the centre set it (R123, R129). -/
def Ramp.endCentreOverride (r : Ramp) : Ramp :=
  match r.override with
  | none => r
  | some o => if o.setBy = .centre then { r with override := none } else r

/-- The table of R123 for a ramp that is not VACANT; VACANT when it is (R124). -/
def Ramp.take (r : Ramp) (l : Link) (takeover : Bool) : Ramp × AuthorityOutcome :=
  if r.state = .vacant then (r, .vacant)
  else
    match r.authority, l with
    | Option.none, .loc => ({ r with authority := some .loc }, .granted)
    | Option.none, .centre => if takeover then (r, .refused) else ({ r with authority := some .centre }, .granted)
    | some .loc, .loc => (r, .held)
    | some .loc, .centre => (r, .refused)
    | some .centre, .loc =>
      if takeover then ({ r.endCentreOverride with authority := some .loc }, .granted) else (r, .refused)
    | some .centre, .centre => if takeover then (r, .refused) else (r, .held)

/-- The answer to a command for one ramp by its outcome (R123, R125). -/
def AuthorityOutcome.reply (o : AuthorityOutcome) : Reply :=
  match o with
  | .vacant => .refuse .absent
  | .refused => .refuse .authority
  | .other => .refuse .authority
  | .granted => .with [AuthorityOutcome.granted.byte]
  | .held => .with [AuthorityOutcome.held.byte]
  | .yielded => .with [AuthorityOutcome.yielded.byte]
  | .none => .with [AuthorityOutcome.none.byte]

/-- A TAKE or YIELD with ALL: each ramp on its own, sixteen outcome bytes, ramp 0 first (R124, R125, R141). -/
def State.authorityAll (s : State) (f : Ramp → Ramp × AuthorityOutcome) : State × Reply :=
  ({ s with ramps := s.ramps.map fun r => (f r).1 }, .with (s.ramps.cells.map fun r => (f r).2.byte))

/-- A TAKE or YIELD of one ramp at the RPC; the byte 0xFF is ALL whichever row carries it (R141, log 26). -/
def State.authorityOne (s : State) (ramp : Byte) (f : Ramp → Ramp × AuthorityOutcome) : State × Reply :=
  if ramp = 0xFF then s.authorityAll f
  else s.onRamp ramp fun n => (s.setRamp n (f (s.ramp n)).1, (f (s.ramp n)).2.reply)

/-- TAKE AUTHORITY for one ramp (R123). -/
def execTakeAuthority (l : Link) (ramp : Byte) (s : State) : Host.Outcome State Fault Refusal :=
  .next (s.frame l 0x1A fun t => t.authorityOne ramp fun r => r.take l t.takeover)

/-- TAKE AUTHORITY with ALL (R124). -/
def execTakeAuthorityAll (l : Link) (s : State) : Host.Outcome State Fault Refusal :=
  .next (s.frame l 0x1A fun t => t.authorityAll fun r => r.take l t.takeover)

/-! ### YIELD AUTHORITY (R125) -/

/-- The outcome of a YIELD for one ramp record (R125). -/
def Ramp.yieldTo (r : Ramp) (l : Link) : Ramp × AuthorityOutcome :=
  if r.state = .vacant then (r, .vacant)
  else
    match r.authority with
    | Option.none => (r, .none)
    | some a => if a = l then ({ r with authority := Option.none }, .yielded) else (r, .other)

/-- YIELD AUTHORITY for one ramp (R125). -/
def execYieldAuthority (l : Link) (ramp : Byte) (s : State) : Host.Outcome State Fault Refusal :=
  .next (s.frame l 0x1B fun t => t.authorityOne ramp fun r => r.yieldTo l)

/-- YIELD AUTHORITY with ALL (R125). -/
def execYieldAuthorityAll (l : Link) (s : State) : Host.Outcome State Fault Refusal :=
  .next (s.frame l 0x1B fun t => t.authorityAll fun r => r.yieldTo l)

/-! ### The TAKEOVER line (R126) -/

/-- TAKEOVER is asserted: the line is read live, no ramp record changes (R126). -/
def execTakeoverAssert (s : State) : Host.Outcome State Fault Refusal := .next { s with takeover := true }

/-- TAKEOVER is withdrawn: no ramp record changes (R126). -/
def execTakeoverWithdraw (s : State) : Host.Outcome State Fault Refusal := .next { s with takeover := false }

/-! ### Overrides (R127 to R129) -/

/-- The override that an accepted OVERRIDE writes: a duration of 0 is "until ended" (R127). -/
def Override.ofArgs (l : Link) (rate duration : Word) : Override where
  rate := rate.toNat
  remaining := if duration = 0 then none else some duration.toNat
  setBy := l
  phase := 0

/-- OVERRIDE at its owning block (R127). -/
def State.overrideCommand (s : State) (l : Link) (ramp : Byte) (rate duration : Word) : State × Reply :=
  s.onPlan ramp fun n _ =>
    if !(s.ramp n).allows l then (s, .refuse .authority)
    else if rate.toNat < 60 ∨ 5400 < rate.toNat ∨ 7200 < duration.toNat then (s, .refuse .range)
    else (s.modRamp n fun r => { r with override := some (Override.ofArgs l rate duration) }, .done)

/-- OVERRIDE (R127). -/
def execOverrideRate (l : Link) (ramp : Byte) (rate duration : Word) (s : State) : Host.Outcome State Fault Refusal :=
  .next (s.frame l 0x18 fun t => t.overrideCommand l ramp rate duration)

/-- END OVERRIDE at its owning block (R129). -/
def State.endOverride (s : State) (l : Link) (ramp : Byte) : State × Reply :=
  s.onPlan ramp fun n _ =>
    if !(s.ramp n).allows l then (s, .refuse .authority)
    else (s.modRamp n fun r => { r with override := none }, .done)

/-- END OVERRIDE (R129). -/
def execEndOverride (l : Link) (ramp : Byte) (s : State) : Host.Outcome State Fault Refusal :=
  .next (s.frame l 0x19 fun t => t.endOverride l ramp)

/-- The last second of the override's countdown has run, so the remaining seconds reach 0 (R128). -/
def Ramp.overrideDone (r : Ramp) : Bool :=
  match r.override with
  | none => false
  | some o =>
    match o.remaining with
    | none => false
    | some k => decide (k ≤ 1) && decide (100 ≤ o.phase)

/-- OVERRIDE EXPIRY: the remaining seconds reach 0 and the override is removed, in one event (R128). -/
def execOverrideExpiry (n : RampNo) (s : State) : Host.Outcome State Fault Refusal :=
  .next (s.running fun t =>
    if (t.ramp n).overrideDone then t.modRamp n fun r => { r with override := none } else t)

end Sys2Proof.Machine
end

