-- ==== Sys2Proof/Machine/Zones.lean ====
section
/-! DEFINITION. Bottleneck zones (05): ZONE DEFINE, AMEND and DISSOLVE with their checks, and the evaluation on a window
summary with the share bulletin. -/

namespace Sys2Proof.Machine

/-! ### Notices and memberships -/

/-- The live flag of a ZONE notice: DEGRADED or unable (R93). -/
def Zone.live (z : Zone) : Bool := decide (z.state = .degraded) || z.unable

/-- The ZONE notice of a definition or dissolution (R93). -/
def State.zoneChanged (s : State) (z : ZoneNo) (cause : ZoneCause) : State :=
  s.raise .zone z.val (.zoneChanged (s.zone z).state (s.zone z).r (s.zone z).unable cause) (s.zone z).live

/-- A zone number entered in an ascending list, once. -/
def insertZone (z : ZoneNo) : List ZoneNo → List ZoneNo
  | [] => [z]
  | y :: rest => if z = y then y :: rest else if z.val < y.val then z :: y :: rest else y :: insertZone z rest

/-- The zone entered in the zones joined list of each of these ramps (R81, R87). -/
def State.joinAll (s : State) (z : ZoneNo) (members : List (RampNo × Nat)) : State :=
  members.foldl (fun t m => t.modRamp m.1 fun r => { r with joined := insertZone z r.joined }) s

/-- A ramp's count of zones: member lists that hold it and pending amendments that would add it (R80, R83). -/
def State.zoneCount (s : State) (n : RampNo) : Nat :=
  (s.zones.cells.filter fun z => z.members.any fun m => decide (m.1 = n)).length +
    (s.zones.cells.filter fun z =>
      match z.amendment with
      | none => false
      | some a => a.additions.any fun m => decide (m.1 = n)).length

/-- A ramp is VACANT. -/
def State.rampVacant (s : State) (n : RampNo) : Bool := decide ((s.ramp n).state = .vacant)

/-! ### Argument ranges -/

/-- Oc is 50 to 600 (R80). -/
def ocInRange (oc : Nat) : Bool := decide (50 ≤ oc) && decide (oc ≤ 600)
/-- Gz is 1 to 255 (R80). -/
def gzInRange (gz : Nat) : Bool := decide (1 ≤ gz) && decide (gz ≤ 255)
/-- Rmax is 0 to 3000 (R80). -/
def rmaxInRange (rmax : Nat) : Bool := decide (rmax ≤ 3000)

/-- A list of arguments, when every one is in range. -/
def allArgs {α β : Type} (f : α → Option β) : List α → Option (List β)
  | [] => some []
  | a :: rest =>
    match f a, allArgs f rest with
    | some b, some bs => some (b :: bs)
    | _, _ => none

/-- A member entry: a ramp 0 to 15 with a weight 1 to 15 (R80, R83). -/
def memberArg (p : Byte × Byte) : Option (RampNo × Nat) :=
  match rampArg p.1 with
  | none => none
  | some n => if 1 ≤ p.2.toNat ∧ p.2.toNat ≤ 15 then some (n, p.2.toNat) else none

/-! ### ZONE DEFINE (R80, R81) -/

/-- The record of an accepted definition (R81). -/
def Zone.defined (l : Link) (dets : List Chan) (oc gz rmax : Nat) (members : List (RampNo × Nat)) : Zone where
  state := .idle
  owner := some l
  detectors := dets
  oc := oc
  gz := gz
  rmax := rmax
  members := members
  r := 0
  unable := false
  oz := none
  lastEval := none
  amendment := none

/-- A definition installed (R81). -/
def State.defineZone (s : State) (z : ZoneNo) (rec : Zone) : State :=
  (((s.setZone z rec).claimAll (.zone z) (rec.detectors.map (·, Kind.mainline))).joinAll z rec.members).zoneChanged z
    .defined

/-- Check 7 of R80: the channel has kind NONE or MAINLINE. -/
def State.detectorFree (s : State) (c : Chan) : Bool :=
  decide ((s.chan c).kind = none) || decide ((s.chan c).kind = some .mainline)

/-- Checks 6 to 10 of R80 in order, and the definition. -/
def State.defineChecked (s : State) (l : Link) (z : ZoneNo) (dets : List Chan) (oc gz rmax : Nat)
    (members : List (RampNo × Nat)) : State × Reply :=
  if !noRepeat dets then (s, .refuse .conflict)
  else if !dets.all s.detectorFree then (s, .refuse .conflict)
  else if !noRepeat (members.map (·.1)) then (s, .refuse .conflict)
  else if members.any fun m => s.rampVacant m.1 then (s, .refuse .absent)
  else if members.any fun m => decide (3 < s.zoneCount m.1 + 1) then (s, .refuse .conflict)
  else (s.defineZone z (Zone.defined l dets oc gz rmax members), .done)

/-- ZONE DEFINE at its owning block: checks 1 to 5 of R80, then the rest. -/
def State.zoneDefine (s : State) (l : Link) (a : ZoneDefineArgs) : State × Reply :=
  match zoneArg a.zone with
  | none => (s, .refuse .range)
  | some z =>
    if (s.zone z).state ≠ .vacant then (s, .refuse .state)
    else
      match allArgs chanArg a.detectors, allArgs memberArg a.members with
      | some dets, some members =>
        if dets.length < 1 ∨ 4 < dets.length ∨ !ocInRange a.oc.toNat ∨ !gzInRange a.gz.toNat ∨
            !rmaxInRange a.rmax.toNat ∨ 6 < members.length then (s, .refuse .range)
        else s.defineChecked l z dets a.oc.toNat a.gz.toNat a.rmax.toNat members
      | _, _ => (s, .refuse .range)

/-- ZONE DEFINE (R80, R81). -/
def execZoneDefine (l : Link) (a : ZoneDefineArgs) (s : State) : Host.Outcome State Fault Refusal :=
  .next (s.frame l 0x20 fun t => t.zoneDefine l a)

/-! ### Ownership (R82) -/

/-- The sending link may change the zone: it owns it, or no link does (R82). -/
def Zone.allows (z : Zone) (l : Link) : Bool :=
  match z.owner with
  | none => true
  | some o => decide (o = l)

/-! ### ZONE AMEND (R83, R84) -/

/-- A parameter of ZONE AMEND: no change, or a value in or out of its range (R83, R143). -/
inductive ParamChange where
  | keep
  | value (v : Nat)
  | outOfRange
  deriving DecidableEq, Repr

/-- The change that an argument asks for; `none` stands for the bytes that mean no change (R143). -/
def paramChange (noChange : Bool) (inRange : Nat → Bool) (v : Nat) : ParamChange :=
  if noChange then .keep else if inRange v then .value v else .outOfRange

/-- The new pending value of a field (R84). -/
def ParamChange.merge (p : ParamChange) (old : Option Nat) : Option Nat :=
  match p with
  | .keep => old
  | .value v => some v
  | .outOfRange => old

/-- An empty amendment. -/
def ZoneAmendment.none : ZoneAmendment := ⟨Option.none, Option.none, Option.none, [], []⟩

/-- A weight written for a ramp in a list: replaced in place, or added at the end (R84; the order is log 38). -/
def putWeight (n : RampNo) (w : Nat) : List (RampNo × Nat) → List (RampNo × Nat)
  | [] => [(n, w)]
  | m :: rest => if m.1 = n then (n, w) :: rest else m :: putWeight n w rest

/-- A weight replaced where the list names the ramp. -/
def replaceWeight (n : RampNo) (w : Nat) (l : List (RampNo × Nat)) : List (RampNo × Nat) :=
  l.map fun m => if m.1 = n then (n, w) else m

/-- One weight change merged: a pending addition's weight is replaced, any other is a pending weight (R84). -/
def ZoneAmendment.mergeWeight (a : ZoneAmendment) (m : RampNo × Nat) : ZoneAmendment :=
  if a.additions.any fun x => decide (x.1 = m.1) then { a with additions := replaceWeight m.1 m.2 a.additions }
  else { a with weights := putWeight m.1 m.2 a.weights }

/-- The pending amendment with an accepted command merged (R84); of two weights for one ramp in the command the later stands
(log 38). -/
def ZoneAmendment.merge (a : ZoneAmendment) (oc gz rmax : ParamChange) (weights additions : List (RampNo × Nat)) :
    ZoneAmendment :=
  let b := weights.foldl ZoneAmendment.mergeWeight
    { a with oc := oc.merge a.oc, gz := gz.merge a.gz, rmax := rmax.merge a.rmax }
  { b with additions := b.additions ++ additions }

/-- The pending additions of a zone. -/
def Zone.additions (z : Zone) : List (RampNo × Nat) := (z.amendment.map (·.additions)).getD []

/-- A ramp is a member of the zone or a pending addition to it (R83). -/
def Zone.names (z : Zone) (n : RampNo) : Bool :=
  (z.members ++ z.additions).any fun m => decide (m.1 = n)

/-- The record after an accepted ZONE AMEND: merged, the pending amendment left as it was when nothing is carried; an
ownerless zone taken by the sending link (R82 to R84). -/
def Zone.amendWith (z : Zone) (l : Link) (oc gz rmax : ParamChange) (weights additions : List (RampNo × Nat)) : Zone :=
  { z with
    owner := some l
    amendment :=
      if oc = .keep ∧ gz = .keep ∧ rmax = .keep ∧ weights = [] ∧ additions = [] then z.amendment
      else some ((z.amendment.getD .none).merge oc gz rmax weights additions) }

/-- Checks 5 to 9 of R83 in order, and the merge. -/
def State.amendChecked (s : State) (l : Link) (z : ZoneNo) (oc gz rmax : ParamChange)
    (weights additions : List (RampNo × Nat)) : State × Reply :=
  if !weights.all (fun m => (s.zone z).names m.1) then (s, .refuse .absent)
  else if !noRepeat (additions.map (·.1)) ∨ additions.any (fun m => (s.zone z).names m.1) then (s, .refuse .conflict)
  else if additions.any fun m => s.rampVacant m.1 then (s, .refuse .absent)
  else if 6 < (s.zone z).members.length + (s.zone z).additions.length + additions.length then (s, .refuse .range)
  else if additions.any fun m => decide (3 < s.zoneCount m.1 + 1) then (s, .refuse .conflict)
  else (s.setZone z ((s.zone z).amendWith l oc gz rmax weights additions), .done)

/-- ZONE AMEND at its owning block: checks 1 to 4 of R83, then the rest. -/
def State.zoneAmend (s : State) (l : Link) (a : ZoneAmendArgs) : State × Reply :=
  match zoneArg a.zone with
  | none => (s, .refuse .range)
  | some z =>
    if (s.zone z).state = .vacant then (s, .refuse .absent)
    else if !(s.zone z).allows l then (s, .refuse .authority)
    else
      let oc := paramChange (a.oc == 0xFFFF) ocInRange a.oc.toNat
      let gz := paramChange (a.gz == 0) gzInRange a.gz.toNat
      let rmax := paramChange (a.rmax == 0xFFFF) rmaxInRange a.rmax.toNat
      match allArgs memberArg a.weights, allArgs memberArg a.additions with
      | some weights, some additions =>
        if oc = .outOfRange ∨ gz = .outOfRange ∨ rmax = .outOfRange then (s, .refuse .range)
        else s.amendChecked l z oc gz rmax weights additions
      | _, _ => (s, .refuse .range)

/-- ZONE AMEND (R82 to R84). -/
def execZoneAmend (l : Link) (a : ZoneAmendArgs) (s : State) : Host.Outcome State Fault Refusal :=
  .next (s.frame l 0x21 fun t => t.zoneAmend l a)

/-! ### ZONE DISSOLVE (R85) -/

/-- The zone taken out of every zones joined list that holds it. -/
def Ramp.leaveZone (r : Ramp) (z : ZoneNo) : Ramp := { r with joined := r.joined.filter fun y => decide (y ≠ z) }

/-- A dissolution (R85). -/
def State.dissolveZone (s : State) (z : ZoneNo) : State :=
  let t : State := { s.setZone z Zone.vacantRecord with ramps := s.ramps.map fun r => r.leaveZone z }
  (t.releaseAll (.zone z)).zoneChanged z .dissolved

/-- ZONE DISSOLVE at its owning block (R85). -/
def State.zoneDissolve (s : State) (l : Link) (zone : Byte) : State × Reply :=
  match zoneArg zone with
  | none => (s, .refuse .range)
  | some z =>
    if (s.zone z).state = .vacant then (s, .refuse .absent)
    else if !(s.zone z).allows l then (s, .refuse .authority)
    else (s.dissolveZone z, .done)

/-- ZONE DISSOLVE (R85). -/
def execZoneDissolve (l : Link) (zone : Byte) (s : State) : Host.Outcome State Fault Refusal :=
  .next (s.frame l 0x22 fun t => t.zoneDissolve l zone)

/-! ### Evaluation (R87 to R91) -/

/-- The pending amendment applied to the record (R87 step 1). -/
def Zone.applyAmendment (z : Zone) : Zone :=
  match z.amendment with
  | none => z
  | some a =>
    { z with
      oc := a.oc.getD z.oc
      gz := a.gz.getD z.gz
      rmax := a.rmax.getD z.rmax
      members := (a.weights.foldl (fun m w => replaceWeight w.1 w.2 m) z.members) ++ a.additions
      amendment := none }

/-- The floor of the mean of the VALID entries' occupancies among these channels; absent when none is VALID (R64, R88). -/
def Summary.meanOccupancy (sum : Summary) (chans : List Chan) : Option Nat :=
  let valid := (chans.map sum.entries.get).filter fun e => decide (e.validity = .valid)
  if valid.isEmpty then none else some ((valid.map (·.occupancy)).sum / valid.length)

/-- A member is eligible: METERING with no override (R90). -/
def Ramp.eligible (r : Ramp) : Bool := decide (r.state = .metering) && r.override.isNone

/-- The new reduction (R89). -/
def Zone.newReduction (z : Zone) (oz : Nat) : Nat :=
  clamp ((z.r : Int) + ((z.gz : Int) * ((oz : Int) - (z.oc : Int))).tdiv 16).toNat 0 z.rmax

/-- The remainder given out one veh/h at a time from the head of the list (R91). -/
def giveRemainder : Nat → List (RampNo × Nat) → List (RampNo × Nat)
  | 0, l => l
  | _ + 1, [] => []
  | k + 1, (n, v) :: rest => (n, v + 1) :: giveRemainder k rest

/-- The shares of a reduction among the eligible members, in member-list order (R91). -/
def shareOut (r : Nat) (eligible : List (RampNo × Nat)) : List (RampNo × Nat) :=
  let total := (eligible.map (·.2)).sum
  let floors := eligible.map fun m => (m.1, r * m.2 / total)
  giveRemainder (r - (floors.map (·.2)).sum) floors

/-- A zone after an evaluation, with its share list. -/
structure Evaluated where
  zone : Zone
  shares : List (RampNo × Nat)
  deriving DecidableEq, Repr

/-- The evaluation of one zone that is not VACANT, its amendment already applied (R87 to R91). -/
def Zone.evaluate (z : Zone) (sum : Summary) (ramps : RampNo → Ramp) : Evaluated :=
  match sum.meanOccupancy z.detectors with
  | none => ⟨{ z with state := .degraded, r := 0, unable := false, oz := none, lastEval := some sum.number }, []⟩
  | some oz =>
    let r := z.newReduction oz
    let eligible := z.members.filter fun m => (ramps m.1).eligible
    ⟨{ z with
        state := if 0 < r then .restricting else .idle
        r := r
        unable := decide (0 < r) && eligible.isEmpty
        oz := some oz
        lastEval := some sum.number },
      shareOut r eligible⟩

/-- A zone taken through one evaluation: amendment, occupancy, reduction, shares, and the ZONE notice when its state or
unable changes (R87, R93). -/
def State.evaluateZone (s : State) (sum : Summary) (z : ZoneNo) : State × Option BulletinEntry :=
  if (s.zone z).state = .vacant then (s, none)
  else
    let t := (s.joinAll z (s.zone z).additions).setZone z (s.zone z).applyAmendment
    let e := (t.zone z).evaluate sum t.ramp
    let u := t.setZone z e.zone
    let v :=
      if e.zone.state ≠ (s.zone z).state ∨ e.zone.unable ≠ (s.zone z).unable then
        u.raise .zone z.val (.zoneEvaluated e.zone.state e.zone.r e.zone.unable sum.number) e.zone.live
      else u
    (v, some ⟨z, e.zone.state, e.zone.r, e.shares⟩)

/-- One more zone evaluated, its entry added to those of the bulletin. -/
def evaluateNext (sum : Summary) (acc : State × List BulletinEntry) (z : ZoneNo) : State × List BulletinEntry :=
  let out := acc.1.evaluateZone sum z
  (out.1, acc.2 ++ out.2.toList)

/-- The zones evaluated in ascending order, with the entries of the bulletin (R87, R92). -/
def State.evaluateZones (s : State) (sum : Summary) : State × List BulletinEntry :=
  (List.finRange 6).foldl (evaluateNext sum) (s, [])

/-- The ZNU's part of a window close: the evaluations, then bulletin n kept as the latest and handed to the RPC together
with summary n (R62, R87, R92). -/
def State.takeSummary (s : State) (sum : Summary) : State :=
  let out := s.evaluateZones sum
  let b : Bulletin := ⟨sum.number, out.2⟩
  { out.1 with bulletin := some b, transit := out.1.transit ++ [(sum, b)] }

end Sys2Proof.Machine
end

