-- ==== Sys2Proof/Machine/Store.lean ====
section
/-! DEFINITION. The plan store (11): the stage, the slots, STORE and ERASE with their completion, protection, the restore
scan. -/

namespace Sys2Proof.Machine

/-- The restore scan is running (R161); a scan that waits for a store in flight has not begun (R159). -/
def Scan.running (c : Scan) : Bool :=
  match c with
  | .idle => false
  | .afterStore => false
  | .at _ => true

/-- A store operation is in flight, or the scan runs: the BUSY of the store and stage commands (R156 to R159, R161). -/
def State.storeBusy (s : State) : Bool := s.store.isSome || s.scan.running

/-! ### The stage (R156) -/

/-- STAGE WRITE at its owning block (R156). -/
def State.stageWrite (s : State) (sect : Byte) (bytes : Table Byte 16) : State × Reply :=
  match (byteBelow 4 sect : Option (Fin 4)) with
  | none => (s, .refuse .range)
  | some j =>
    if s.storeBusy then (s, .refuse .busy)
    else if (s.stage.get j).isSome then (s, .refuse .staged)
    else ({ s with stage := s.stage.set j (some bytes) }, .done)

/-- STAGE WRITE (R156). -/
def execStageWrite (l : Link) (sect : Byte) (bytes : Table Byte 16) (s : State) : Host.Outcome State Fault Refusal :=
  .next (s.frame l 0x40 fun t => t.stageWrite sect bytes)

/-- STAGE CLEAR at its owning block (R156). -/
def State.stageClear (s : State) : State × Reply :=
  if s.storeBusy then (s, .refuse .busy) else ({ s with stage := Table.fill 4 none }, .done)

/-- STAGE CLEAR (R156); its byte is disregarded. -/
def execStageClear (l : Link) (_unused : Byte) (s : State) : Host.Outcome State Fault Refusal :=
  .next (s.frame l 0x41 fun t => t.stageClear)

/-- An image written over all four sections, all four marks set (R156, R157). -/
def fullStage (sections : Table (Table Byte 16) 4) : Table (Option (Table Byte 16)) 4 := sections.map some

/-- STAGE FROM RAMP at its owning block (R156). -/
def State.stageFromRamp (s : State) (ramp : Byte) : State × Reply :=
  match rampArg ramp with
  | none => (s, .refuse .range)
  | some n =>
    if s.storeBusy then (s, .refuse .busy)
    else
      match (s.ramp n).state, (s.ramp n).plan with
      | .vacant, _ => (s, .refuse .absent)
      | _, none => (s, .refuse .absent)
      | _, some p => ({ s with stage := fullStage p.sections }, .done)

/-- STAGE FROM RAMP (R156). -/
def execStageFromRamp (l : Link) (ramp : Byte) (s : State) : Host.Outcome State Fault Refusal :=
  .next (s.frame l 0x42 fun t => t.stageFromRamp ramp)

/-! ### FETCH (R157) -/

/-- FETCH at its owning block (R157). -/
def State.fetch (s : State) (slot : Byte) : State × Reply :=
  match slotArg slot with
  | none => (s, .refuse .range)
  | some k =>
    if s.storeBusy then (s, .refuse .busy)
    else
      match s.readSlot k with
      | (t, .error st) => (t, .refuse st)
      | (t, .ok img) => ({ t with stage := fullStage (Table.build 4 (sectionBytes img)) }, .done)

/-- FETCH (R157). -/
def execFetchSlot (l : Link) (slot : Byte) (s : State) : Host.Outcome State Fault Refusal :=
  .next (s.frame l 0x44 fun t => t.fetch slot)

/-! ### STORE and ERASE (R158) -/

/-- An operation begins: store-busy names it, the slot becomes DAMAGED, the answer is ACCEPTED (R158). -/
def State.beginStore (s : State) (op : StoreOp) (k : SlotNo) (img : Table Byte 64) : State × Reply :=
  ({ s.setSlot k { s.slot k with state := .damaged, agrees := false } with store := some ⟨op, k, img⟩ },
    ⟨.accepted, []⟩)

/-- STORE at its owning block (R158). -/
def State.storeCommand (s : State) (slot : Byte) : State × Reply :=
  match slotArg slot with
  | none => (s, .refuse .range)
  | some k =>
    if s.storeBusy then (s, .refuse .busy)
    else
      match stageImage s.stage with
      | none => (s, .refuse .incomplete)
      | some img => if (s.slot k).guarded then (s, .refuse .guarded) else s.beginStore .store k img

/-- STORE (R158). -/
def execStoreSlot (l : Link) (slot : Byte) (s : State) : Host.Outcome State Fault Refusal :=
  .next (s.frame l 0x43 fun t => t.storeCommand slot)

/-- ERASE at its owning block (R158). -/
def State.eraseCommand (s : State) (slot : Byte) : State × Reply :=
  match slotArg slot with
  | none => (s, .refuse .range)
  | some k =>
    if s.storeBusy then (s, .refuse .busy)
    else if (s.slot k).guarded then (s, .refuse .guarded)
    else s.beginStore .erase k (Table.fill 64 0)

/-- ERASE (R158). -/
def execEraseSlot (l : Link) (slot : Byte) (s : State) : Host.Outcome State Fault Refusal :=
  .next (s.frame l 0x45 fun t => t.eraseCommand slot)

/-! ### Protection (R160) -/

/-- PROTECT and UNPROTECT are BUSY for the slot in flight, and for any slot while the scan runs (R160). -/
def State.guardBusy (s : State) (k : SlotNo) : Bool := s.slotInFlight k || s.scan.running

/-- PROTECT at its owning block (R160). -/
def State.protect (s : State) (slot : Byte) : State × Reply :=
  match slotArg slot with
  | none => (s, .refuse .range)
  | some k =>
    if s.guardBusy k then (s, .refuse .busy)
    else (s.setSlot k { s.slot k with guarded := true }, .done)

/-- PROTECT (R160). -/
def execProtectSlot (l : Link) (slot : Byte) (s : State) : Host.Outcome State Fault Refusal :=
  .next (s.frame l 0x46 fun t => t.protect slot)

/-- UNPROTECT at its owning block: only on the local link while TAKEOVER is asserted (R160). -/
def State.unprotect (s : State) (l : Link) (slot : Byte) : State × Reply :=
  match slotArg slot with
  | none => (s, .refuse .range)
  | some k =>
    if s.guardBusy k then (s, .refuse .busy)
    else if l = .loc ∧ s.takeover then (s.setSlot k { s.slot k with guarded := false }, .done)
    else (s, .refuse .guarded)

/-- UNPROTECT (R160). -/
def execUnprotectSlot (l : Link) (slot : Byte) (s : State) : Host.Outcome State Fault Refusal :=
  .next (s.frame l 0x47 fun t => t.unprotect l slot)

/-! ### The restore scan (R161) -/

/-- The scan begins: the report emptied, slot 0 next (R161). -/
def State.beginScan (s : State) : State := { s with report := Table.fill 24 none, scan := .at 0 }

/-- The place of an outcome in the list of R161. -/
def ScanOutcome.index (o : ScanOutcome) : Fin 7 :=
  match o with
  | .empty => 0
  | .damaged => 1
  | .notAuto => 2
  | .skippedDuplicate => 3
  | .skippedConflict => 4
  | .restored => 5
  | .opened => 6

/-- The outcomes in the order of R161. -/
def ScanOutcome.all : Table ScanOutcome 7 :=
  ⟨[.empty, .damaged, .notAuto, .skippedDuplicate, .skippedConflict, .restored, .opened], rfl⟩

/-- The count of each outcome in a report (R161). -/
def outcomeCounts (report : Table (Option ReportEntry) 24) : List Nat :=
  ScanOutcome.all.cells.map fun o =>
    (report.cells.filter fun e => decide (e.map (·.outcome) = some o)).length

/-- A plan restored to its bound ramp: installed with stopped cause RESTORED, and opened when auto-open is set and PERMIT
asserted (R13, R24, R161). -/
def State.restoreRamp (s : State) (n : RampNo) (set : Settled) : State × ScanOutcome :=
  let t := s.installNew n set .restored
  if set.plan.layout.autoOpen && s.permit then (t.enterOpening n set.plan, .opened) else (t, .restored)

/-- The outcome for a VALID slot whose image was read (R161). -/
def State.scanImage (s : State) (img : Table Byte 64) : State × ScanOutcome :=
  if byteAt img 3 / 2 % 2 = 0 then (s, .notAuto)
  else
    match rampArg (img.get 0) with
    | none => (s, .skippedConflict)
    | some n =>
      if (s.ramp n).state ≠ .vacant then (s, .skippedDuplicate)
      else
        match s.checkPlan n img with
        | .error _ => (s, .skippedConflict)
        | .ok set => s.restoreRamp n set

/-- What the scan does with one slot (R157, R161). The entry of a slot found VALID whose check fails is DAMAGED with no bound ramp: the
slot is no longer VALID when the entry is written (R162, log 44). -/
def State.scanSlot (s : State) (k : SlotNo) : State × ReportEntry :=
  match s.readSlot k with
  | (t, .error st) => (t, ⟨if st = .absent then .empty else .damaged, none⟩)
  | (t, .ok img) =>
    let out := t.scanImage img
    (out.1, ⟨out.2, some (img.get 0)⟩)

/-- The scan's next slot; none after slot 23. -/
def nextSlot (k : SlotNo) : Option SlotNo := if h : k.val + 1 < 24 then some ⟨k.val + 1, h⟩ else none

/-- One slot of the scan, and after slot 23 its end with the RESTORE notice (R161). -/
def State.scanStep (s : State) (k : SlotNo) : State :=
  let out := s.scanSlot k
  let report := s.report.set k (some out.2)
  match nextSlot k with
  | some j => { out.1 with report := report, scan := .at j }
  | none =>
    ({ out.1 with report := report, scan := .idle } : State).raise .restore 0 (.restore (outcomeCounts report)) false

/-- RESTORE SCAN SLOT: the scan takes its next slot; nothing when it does not run (R161). -/
def execRestoreScanSlot (s : State) : Host.Outcome State Fault Refusal :=
  .next (s.running fun t =>
    match t.scan with
    | .at k => t.scanStep k
    | .idle => t
    | .afterStore => t)

/-! ### The completion of STORE or ERASE (R158, R159) -/

/-- The slot as the completion leaves it (R158). A failed completion leaves the slot DAMAGED with the image it held before (log 13). -/
def Slot.completed (sl : Slot) (b : StoreBusy) (good : Bool) : Slot :=
  if good then
    match b.op with
    | .store => { sl with image := b.image, agrees := true, state := .valid }
    | .erase => { sl with image := b.image, agrees := false, state := .empty }
  else sl

/-- The detail of the STORE notice: the operation, done or failed, for a STORE the bound ramp of the image (R158). -/
def StoreBusy.detail (b : StoreBusy) (good : Bool) : Detail :=
  .store b.op good (match b.op with
    | .store => some (b.image.get 0)
    | .erase => none)

/-- An operation completes (R158); a scan that a RESTART left waiting begins (R159). -/
def State.completeStore (s : State) (b : StoreBusy) (good : Bool) : State :=
  let t := ({ s.setSlot b.slot ((s.slot b.slot).completed b good) with store := none } : State).raise
    .store b.slot.val (b.detail good) false
  match s.scan with
  | .afterStore => t.beginScan
  | .idle => t
  | .at _ => t

/-- STORE COMPLETION: nothing when no operation is in flight (R158). -/
def execStoreCompletion (readBackGood : Bool) (s : State) : Host.Outcome State Fault Refusal :=
  .next (s.running fun t =>
    match t.store with
    | some b => t.completeStore b readBackGood
    | none => t)

end Sys2Proof.Machine
end

