-- ==== Sys2Proof/Machine/Lookup.lean ====
section
/-! DEFINITION. LOOKUP (R142): the ten groups and the form of their results. Numbers take the fewest whole bytes their range
needs, enumerations their position in the manual's list, lists a count byte first, an absent single field all ones, an
optional part a count byte of 0 or 1 (R142; logs 9 and 11 for what the manual leaves open). -/

namespace Sys2Proof.Machine

/-! ### Forms (R142) -/

/-- One byte. -/
def one (v : Nat) : List Byte := natBytes 1 v
/-- Two bytes, high byte first. -/
def two (v : Nat) : List Byte := natBytes 2 v

/-- A field of `k` bytes that may be absent: all ones when it is (R139). -/
def optField (k : Nat) (v : Option Nat) : List Byte :=
  match v with
  | some v => natBytes k v
  | none => List.replicate k 0xFF

/-- A list: a count byte, then its entries (R142). -/
def listField {α : Type} (f : α → List Byte) (l : List α) : List Byte := BitVec.ofNat 8 l.length :: l.flatMap f

/-- An optional part of several fields: 0, or 1 and its fields (R142). -/
def optPart {α : Type} (f : α → List Byte) (o : Option α) : List Byte :=
  match o with
  | some a => 1 :: f a
  | none => [0]

/-- A mark whose two values the manual lists, the first of them holding (R142, log 9). -/
def listed (first : Bool) : List Byte := [if first then 0 else 1]

/-- A mark whose values no list names (log 9). -/
def unlisted (m : Bool) : List Byte := [Config.markByte m]

/-! ### Enumerations, by position -/

/-- The states of 01 in the order of the ramp record table. -/
def RampState.pos (r : RampState) : Nat :=
  match r with
  | .vacant => 0
  | .parked => 1
  | .opening => 2
  | .metering => 3
  | .flushing => 4
  | .closing => 5
  | .lockout => 6

/-- WARN, START-RED, SETTLE, GREEN. -/
def SubPhase.pos (p : SubPhase) : Nat :=
  match p with
  | .warn => 0
  | .startRed => 1
  | .settle => 2
  | .green => 3

/-- COMMAND, PERMIT, CLOSED, RESTORED. -/
def StopCause.pos (c : StopCause) : Nat :=
  match c with
  | .command => 0
  | .permit => 1
  | .closed => 2
  | .restored => 3

/-- NONE, LOCAL, CENTRE. -/
def authorityPos (a : Option Link) : Nat :=
  match a with
  | none => 0
  | some .loc => 1
  | some .centre => 2

/-- The limiting term: its position, then the zone number for ZONE and all ones otherwise (R142). -/
def limitingBytes (t : Option Limiting) : List Byte :=
  match t with
  | none => [0xFF, 0xFF]
  | some .localTerm => [0, 0xFF]
  | some .fallback => [1, 0xFF]
  | some .override => [2, 0xFF]
  | some (.zone z) => [3, BitVec.ofNat 8 z.val]
  | some .queue => [4, 0xFF]
  | some .minimum => [5, 0xFF]
  | some .maximum => [6, 0xFF]
  | some .flush => [7, 0xFF]
  | some .start => [8, 0xFF]

/-- DARK, HOLD, READY, GREEN, REST-GREEN. -/
def CycleState.pos (c : CycleState) : Nat :=
  match c with
  | .dark => 0
  | .hold => 1
  | .ready => 2
  | .green => 3
  | .restGreen => 4

/-- DARK, RED, GREEN. -/
def Aspect.pos (a : Aspect) : Nat :=
  match a with
  | .dark => 0
  | .red => 1
  | .green => 2

/-- GREEN-CONFLICT, RED-OUT, GREEN-OUT, STRAY-RED, in the order of R118's list. -/
def FaultClass.pos (f : FaultClass) : Nat :=
  match f with
  | .greenConflict => 0
  | .redOut => 1
  | .greenOut => 2
  | .strayRed => 3

/-- NONE, MAINLINE, ENTRY, DEMAND, PASSAGE, QUEUE-END. -/
def kindPos (k : Option Kind) : Nat :=
  match k with
  | none => 0
  | some .mainline => 1
  | some .entry => 2
  | some .demand => 3
  | some .passage => 4
  | some .queueEnd => 5

/-- DISABLED, SETTLING, GOOD, SUSPECT, FAILED. -/
def Health.pos (h : Health) : Nat :=
  match h with
  | .disabled => 0
  | .settling => 1
  | .good => 2
  | .suspect => 3
  | .failed => 4

/-- The demand health: a reported health, or NOT GOOD after the five (R108, log 11). -/
def demandHealthPos (h : Option Health) : Nat :=
  match h with
  | some h => h.pos
  | none => 5

/-- DISABLED, SETTLING, VALID, FAULTY, in the order of R51's table. -/
def Validity.pos (v : Validity) : Nat :=
  match v with
  | .disabled => 0
  | .settling => 1
  | .valid => 2
  | .faulty => 3

/-- VACANT, IDLE, RESTRICTING, DEGRADED. -/
def ZoneState.pos (z : ZoneState) : Nat :=
  match z with
  | .vacant => 0
  | .idle => 1
  | .restricting => 2
  | .degraded => 3

/-- EMPTY, VALID, DAMAGED. -/
def SlotState.pos (k : SlotState) : Nat :=
  match k with
  | .empty => 0
  | .valid => 1
  | .damaged => 2

/-- IDLE, RECEIVING, EXECUTING, REPLYING. -/
def LinkState.pos (l : LinkState) : Nat :=
  match l with
  | .idle => 0
  | .receiving => 1
  | .executing => 2
  | .replying => 3

/-- Absent, assembling, void (R142). -/
def RxFrame.pos (r : RxFrame) : Nat :=
  match r with
  | .absent => 0
  | .assembling _ => 1
  | .void => 2

/-- STORE, ERASE. -/
def StoreOp.pos (o : StoreOp) : Nat :=
  match o with
  | .store => 0
  | .erase => 1

/-- INTERNAL, LINE. -/
def WindowSource.pos (w : WindowSource) : Nat :=
  match w with
  | .internal => 0
  | .line => 1

/-- The faults in the order STUCK-ON, SILENT, CHATTER (R51). -/
def FaultSet.positions (f : FaultSet) : List Nat :=
  (if f.stuckOn then [0] else []) ++ (if f.silent then [1] else []) ++ (if f.chatter then [2] else [])

/-- A fault list (R51). -/
def faultBytes (f : FaultSet) : List Byte := listField one f.positions

/-- A referencer: ramp n as n, zone z as 16 + z (R142). -/
def Referencer.byte (r : Referencer) : Byte :=
  match r with
  | .ramp n => BitVec.ofNat 8 n.val
  | .zone z => BitVec.ofNat 8 (16 + z.val)

/-- A (ramp, weight) entry. -/
def memberBytes (m : RampNo × Nat) : List Byte := one m.1.val ++ one m.2

/-- A (ramp, share) pair. -/
def shareBytes (m : RampNo × Nat) : List Byte := one m.1.val ++ two m.2

/-! ### Groups 1 and 2: ramp status and ramp plan (R2, R108) -/

/-- An override: rate, remaining seconds with 0 for until ended, setting link as 0 local, 1 centre (R142, log 34). -/
def Override.bytes (o : Override) : List Byte := two o.rate ++ two (o.remaining.getD 0) ++ one (linkIndex o.setBy)

/-- A lane-head context (R108, 07); the last fault with its standing mark as an optional part (log 52). -/
def Head.bytes (h : Head) : List Byte :=
  one h.cycle.pos ++ one h.aspect.pos ++ two h.sinceStart ++ two h.sinceEnd ++ listed h.demandOn ++
    one (demandHealthPos h.demandHealth) ++ two h.demandOff ++ unlisted h.redProved ++ unlisted h.greenProved ++
    one h.mismatch ++ optPart (fun f : FaultClass => one f.pos ++ unlisted h.standing) h.lastFault

/-- The ramp status group of one record: the fields of R2 in its order, the trimmed marks as the image offsets that R141 has in a result
(log 41), then the queue-end timers, which R21 has visible in the group (log 35). -/
def Ramp.statusBytes (r : Ramp) : List Byte :=
  one r.state.pos ++ optField 1 (r.sub.map SubPhase.pos) ++ listed r.retirePending ++ one (authorityPos r.authority) ++
    optPart Override.bytes r.override ++ two r.applied ++ two r.computed ++ limitingBytes r.limiting ++
    listField two r.intervals ++ optField 2 r.effMax ++ one r.q ++ listed r.hold ++
    listField (fun z : ZoneNo => one z.val) r.joined ++ optField 2 r.lastUpdate ++
    optField 1 (r.stopped.map StopCause.pos) ++ marksBytes r.trimmed ++ unlisted r.amendment.isSome ++
    two r.contOn ++ two r.contOff

/-- The ramp status group with the beacon and the contexts of the three heads (R2, R108). The three contexts are sent one after the
other, with no count byte before them (log 50). -/
def State.rampStatus (s : State) (n : RampNo) : List Byte :=
  (s.ramp n).statusBytes ++ unlisted (s.beacon n) ++
    (List.finRange 3).flatMap fun k => (s.head (headOf n k)).bytes

/-- A pending amendment: the CONTROL fields and the queue target as seven single fields (log 52). -/
def Amendment.bytes (a : Amendment) : List Byte :=
  two a.control.target ++ one a.control.gain ++ two a.control.minRate ++ two a.control.maxRate ++
    two a.control.startRate ++ two a.control.fallback ++ one a.queueTarget

/-- The ramp plan group (R2). That no plan is held is sent as the byte 0, and 1 stands before the image of a plan (log 49). -/
def Ramp.planBytes (r : Ramp) : List Byte :=
  optPart (fun p : Plan => p.image.cells) r.plan ++ optPart Amendment.bytes r.amendment

/-! ### Groups 3, 4 and 8: channels and corridor settings (R59) -/

/-- The channel group (R59). The faults seen, a set, are sent as a list in the order of R51's fault list (log 56). -/
def State.channelBytes (s : State) (c : Chan) : List Byte :=
  let r := s.chan c
  one (kindPos r.kind) ++ listField (fun p : Referencer × Kind => [p.1.byte] ++ one (kindPos (some p.2))) r.refs ++
    one (kindPos r.sampling) ++ one r.health.pos ++ one r.healthCount ++ listed r.presence ++ natBytes 3 r.contOn ++
    unlisted r.qualified ++ unlisted r.stuck ++ two r.onTime ++ two r.counted ++ two r.shortPulses ++
    faultBytes r.faults ++ one r.silentRun ++ two s.winNum ++ two s.elapsed

/-- A summary entry with the number and W of its window (R59). -/
def summaryBytes (e : SummaryEntry) (w : Nat × Nat) : List Byte :=
  two e.occupancy ++ two e.count ++ one e.validity.pos ++ faultBytes e.faults ++ two w.1 ++ two w.2

/-- The channel summary group. Before the first close after a reset it is the byte 0, and otherwise 1 stands before the entry and the
number and W of its window (R59, log 49). -/
def State.channelSummary (s : State) (c : Chan) : List Byte :=
  match (s.chan c).last, s.lastClosed with
  | some e, some w => 1 :: summaryBytes e w
  | some _, none => [0]
  | none, _ => [0]

/-- A set of corridor settings in the order of R58's table: each per-kind setting as its five values in the order of the kinds, with no
count byte before them (log 50). -/
def Settings.bytes (c : Settings) : List Byte :=
  one c.source.pos ++ one c.length ++ c.kinds.cells.flatMap (fun k => one k.debounce) ++
    c.kinds.cells.flatMap (fun k => two k.maxOn) ++ c.kinds.cells.flatMap (fun k => one k.silent) ++
    c.kinds.cells.flatMap (fun k => one k.chatter) ++ one c.persistence ++ one c.recovery ++ one c.tolerance

/-- The corridor settings group (R59). -/
def State.settingsBytes (s : State) : List Byte := s.settings.bytes ++ optPart Settings.bytes s.pendSettings

/-! ### Groups 5 and 6: zones (R94) -/

/-- A zone's pending amendment. -/
def ZoneAmendment.bytes (a : ZoneAmendment) : List Byte :=
  optField 2 a.oc ++ optField 1 a.gz ++ optField 2 a.rmax ++ listField memberBytes a.weights ++
    listField memberBytes a.additions

/-- The zone group (R94). The absent lists of a VACANT zone are sent as empty lists (log 36). -/
def Zone.bytes (z : Zone) : List Byte :=
  one z.state.pos ++ one (authorityPos z.owner) ++ listField (fun c : Chan => one c.val) z.detectors ++ two z.oc ++
    one z.gz ++ two z.rmax ++ listField memberBytes z.members ++ two z.r ++ listed z.unable ++ optField 2 z.oz ++
    optField 2 z.lastEval ++ optPart ZoneAmendment.bytes z.amendment

/-- A zone's entry of a bulletin. -/
def BulletinEntry.bytes (e : BulletinEntry) : List Byte := one e.state.pos ++ two e.r ++ listField shareBytes e.shares

/-- The bulletin entry group (R94). That no bulletin has been published is sent as the byte 0, and otherwise 1 stands before its number;
the zone's entry follows in the same form, 0 when the bulletin has none (log 49). -/
def State.bulletinBytes (s : State) (z : ZoneNo) : List Byte :=
  optPart (fun b : Bulletin =>
    two b.number ++ optPart BulletinEntry.bytes (b.entries.find? fun e => decide (e.zone = z))) s.bulletin

/-! ### Groups 7 and 10: the plan store (R157, R162) -/

/-- A slot of the directory: state, protected mark and, when VALID, the bound ramp and the two flags of its image (R157), these as an
optional part (log 52). -/
def Slot.bytes (sl : Slot) : List Byte :=
  one sl.state.pos ++ unlisted sl.guarded ++
    match sl.state with
    | .valid => 1 :: [sl.image.get 0] ++ listed (decide (byteAt sl.image 3 / 2 % 2 = 1)) ++
        listed (decide (byteAt sl.image 3 / 4 % 2 = 1))
    | .empty => [0]
    | .damaged => [0]

/-- The slot directory group (R157). The four filled marks are sent as four fields, with no count byte before them (log 45). -/
def State.directoryBytes (s : State) : List Byte :=
  listField Slot.bytes s.slots.cells ++ s.stage.cells.flatMap (fun f => unlisted f.isSome) ++
    optPart (fun b : StoreBusy => one b.op.pos ++ one b.slot.val) s.store

/-- An entry of the restore report (R162); an outcome or a bound ramp that is absent is 0xFF (log 51). -/
def reportBytes (e : Option ReportEntry) : List Byte :=
  match e with
  | none => [0xFF, 0xFF]
  | some e => one e.outcome.index.val ++ [e.bound.getD 0xFF]

/-- The restore report group (R162). -/
def State.reportListing (s : State) : List Byte := listField reportBytes s.report.cells

/-! ### Group 9: link status (R142) -/

/-- The link status group (R142). -/
def LinkCtx.bytes (c : LinkCtx) : List Byte :=
  one c.linkState.pos ++ one c.rx.pos ++ unlisted c.overrun ++ listed c.supervised ++ two c.supTime ++ two c.supTimer

/-! ### The rows -/

/-- A group read at an index: RANGE when the index is outside the group's range (R142). No record changes. -/
def State.lookup {α : Type} (s : State) (index : Option α) (f : α → List Byte) : State × Reply :=
  match index with
  | none => (s, .refuse .range)
  | some a => (s, .with (f a))

/-- LOOKUP group 1 (R2, R108). -/
def execLookupRampStatus (l : Link) (index : Byte) (s : State) : Host.Outcome State Fault Refusal :=
  .next (s.frame l 0x10 fun t => t.lookup (rampArg index) t.rampStatus)

/-- LOOKUP group 2 (R2). -/
def execLookupRampPlan (l : Link) (index : Byte) (s : State) : Host.Outcome State Fault Refusal :=
  .next (s.frame l 0x10 fun t => t.lookup (rampArg index) fun n => (t.ramp n).planBytes)

/-- LOOKUP group 3 (R59). -/
def execLookupChannel (l : Link) (index : Byte) (s : State) : Host.Outcome State Fault Refusal :=
  .next (s.frame l 0x10 fun t => t.lookup (chanArg index) t.channelBytes)

/-- LOOKUP group 4 (R59). -/
def execLookupChannelSummary (l : Link) (index : Byte) (s : State) : Host.Outcome State Fault Refusal :=
  .next (s.frame l 0x10 fun t => t.lookup (chanArg index) t.channelSummary)

/-- LOOKUP group 5 (R94). -/
def execLookupZone (l : Link) (index : Byte) (s : State) : Host.Outcome State Fault Refusal :=
  .next (s.frame l 0x10 fun t => t.lookup (zoneArg index) fun z => (t.zone z).bytes)

/-- LOOKUP group 6 (R94). -/
def execLookupBulletinEntry (l : Link) (index : Byte) (s : State) : Host.Outcome State Fault Refusal :=
  .next (s.frame l 0x10 fun t => t.lookup (zoneArg index) t.bulletinBytes)

/-- LOOKUP group 7; the index is disregarded (R157). -/
def execLookupSlotDirectory (l : Link) (_index : Byte) (s : State) : Host.Outcome State Fault Refusal :=
  .next (s.frame l 0x10 fun t => t.lookup (some ()) fun _ => t.directoryBytes)

/-- LOOKUP group 8; the index is disregarded (R59). -/
def execLookupCorridorSettings (l : Link) (_index : Byte) (s : State) : Host.Outcome State Fault Refusal :=
  .next (s.frame l 0x10 fun t => t.lookup (some ()) fun _ => t.settingsBytes)

/-- LOOKUP group 9: 0 local, 1 centre (R142). -/
def execLookupLinkStatus (l : Link) (index : Byte) (s : State) : Host.Outcome State Fault Refusal :=
  .next (s.frame l 0x10 fun t => t.lookup (linkArg index) fun k => (t.link k).bytes)

/-- LOOKUP group 10; the index is disregarded (R162). -/
def execLookupRestoreReport (l : Link) (_index : Byte) (s : State) : Host.Outcome State Fault Refusal :=
  .next (s.frame l 0x10 fun t => t.lookup (some ()) fun _ => t.reportListing)

end Sys2Proof.Machine
end

