-- ==== Sys2Proof/Machine/Notices.lean ====
section
/-! DEFINITION. The notice commands (10): NOTICE QUERY, CLEAR and MASK, and the form of a record (R145). -/

namespace Sys2Proof.Machine

/-! ### The record of a query (R145, R152) -/

/-- The stopped cause that a transition to PARKED writes (R19). -/
def stoppedCauseOf (c : RampCause) : Option StopCause :=
  match c with
  | .commission => some .command
  | .close => some .command
  | .clearLockout => some .command
  | .permitLost => some .permit
  | .closingEnded => some .closed
  | .opened => none
  | .startRedEnded => none
  | .flushEnded => none
  | .retire => none
  | .queueAlarm => none
  | .provingFault => none

/-- The cause of a transition as a detail sends it: of a transition to PARKED the stopped cause, by its position (R19, R39, R142), and
of any other the free value of its cause (log 10). -/
def causeByte (st : RampState) (cause : RampCause) : Byte :=
  match st, stoppedCauseOf cause with
  | .parked, some c => BitVec.ofNat 8 c.pos
  | _, _ => Config.rampCauseByte cause

/-- The fields of a detail in the order its raising rule names them, each in the form of R142, and no others (R145, logs 10, 11): a
DETECTOR detail is the fault list for an entry to FAILED, and the event alone for the others (R57). The state and the cause of R39
stand before the fields of R33 and R106 (log 31). The seven counts of a RESTORE are sent as seven fields of one byte, with no count
byte before them (log 47). The detail of a STORE notice for an ERASE ends with done or failed, and no byte stands for a bound ramp
(log 51). -/
def Detail.bytes (d : Detail) : List Byte :=
  match d with
  | .none => []
  | .lockout st cause h f => one st.pos ++ [Config.rampCauseByte cause] ++ one h.val ++ one f.pos
  | .flush st cause c dwell q cap =>
    one st.pos ++ [Config.rampCauseByte cause] ++ optField 1 (c.map Fin.val) ++ one dwell ++ one q ++ one cap
  | .detectorFailed faults => faultBytes faults
  | .detector cause => [Config.detectorCauseByte cause]
  | .lamp f a r => one f.pos ++ one a.pos ++ one r.pos
  | .zoneEvaluated st r unable w => one st.pos ++ two r ++ listed unable ++ two w
  | .zoneChanged st r unable cause => one st.pos ++ two r ++ listed unable ++ [Config.zoneCauseByte cause]
  | .rampState st cause => one st.pos ++ [causeByte st cause]
  | .store op done bound => one op.pos ++ listed done ++ bound.toList
  | .sync w => two w
  | .restore counts => counts.flatMap one

/-- A record: kind, subject, latched mark, live flag, detail with its count of bytes (R145). -/
def Notice.bytes (n : Notice) : List Byte :=
  one n.kind.priority ++ one n.subject ++ unlisted n.latched ++ unlisted n.live ++
    (BitVec.ofNat 8 n.detail.bytes.length :: n.detail.bytes)

/-- The result of NOTICE QUERY: the count of unmasked records, then the first of them when there is one (R152). -/
def LinkCtx.queryBytes (c : LinkCtx) : List Byte :=
  one c.visible.length ++ match c.visible.head? with
    | some n => n.bytes
    | none => []

/-- NOTICE QUERY (R152); its byte is disregarded. -/
def execNoticeQuery (l : Link) (_unused : Byte) (s : State) : Host.Outcome State Fault Refusal :=
  .next (s.frame l 0x50 fun t => (t, .with (t.link l).queryBytes))

/-! ### NOTICE CLEAR (R153) -/

/-- A kind by its priority, 1 to 11 (R145). -/
def kindArg (b : Byte) : Option NoticeKind :=
  if b = 0 then none
  else
    match (byteBelow 11 (b - 1) : Option (Fin 11)) with
    | some i => some (NoticeKind.all.get i)
    | none => none

/-- A link's pending set rewritten. -/
def State.modSet (s : State) (l : Link) (f : List Notice → List Notice) : State :=
  s.setLink l { s.link l with set := f (s.link l).set }

/-- ALL: every record of the sending link's set removed, masked kinds included (R153). -/
def State.clearAllNotices (s : State) (l : Link) : State × Reply := (s.modSet l fun _ => [], .done)

/-- One kind and subject: the record removed when present (R153). -/
def State.clearNotice (s : State) (l : Link) (kind subject : Byte) : State × Reply :=
  match kindArg kind with
  | none => (s, .refuse .range)
  | some k =>
    if subject.toNat < k.subjects then
      (s.modSet l fun set => set.filter fun n => decide (¬(n.kind = k ∧ n.subject = subject.toNat)), .done)
    else (s, .refuse .range)

/-- NOTICE CLEAR of a kind and subject; the kind byte 0xFF is ALL whichever row carries it (R145, R153, log 26). -/
def execNoticeClear (l : Link) (kind subject : Byte) (s : State) : Host.Outcome State Fault Refusal :=
  .next (s.frame l 0x51 fun t => if kind = 0xFF then t.clearAllNotices l else t.clearNotice l kind subject)

/-- NOTICE CLEAR with ALL; the subject is disregarded (R153). -/
def execNoticeClearAll (l : Link) (_unused : Byte) (s : State) : Host.Outcome State Fault Refusal :=
  .next (s.frame l 0x51 fun t => t.clearAllNotices l)

/-! ### NOTICE MASK (R151) -/

/-- The mask set that unmasks exactly the kinds listed (R151). -/
def maskOf (kinds : List NoticeKind) : Table Bool 11 :=
  Table.build 11 fun i => kinds.any fun k => decide (k.index = i)

/-- NOTICE MASK at its owning block: a count above 11, or a kind outside 1 to 11, is RANGE (R151). -/
def State.maskNotices (s : State) (l : Link) (kinds : List Byte) : State × Reply :=
  match allArgs kindArg kinds with
  | none => (s, .refuse .range)
  | some ks =>
    if 11 < ks.length then (s, .refuse .range)
    else (s.setLink l { s.link l with unmasked := maskOf ks }, .done)

/-- NOTICE MASK (R151). -/
def execNoticeMask (l : Link) (kinds : List Byte) (s : State) : Host.Outcome State Fault Refusal :=
  .next (s.frame l 0x52 fun t => t.maskNotices l kinds)

end Sys2Proof.Machine
end

