-- ==== Sys2Proof/Machine/Reports.lean ====
section
/-! DEFINITION. What the DTU reports and how the RPC and the RSQ take it (R46): actuations (R97, R98), demand and queue-end
presence (R101, R108), channel health (R98, R100, R101, R108). -/

namespace Sys2Proof.Machine

/-- An entry actuation: Q rises by 1 while the hold is clear (R97). -/
def Ramp.takeEntry (r : Ramp) (c : Chan) : Ramp :=
  if r.entryChan = some c ∧ ¬ r.hold then r.addVehicle else r

/-- A passage actuation at one ramp and lane: Q falls by 1 while the hold is clear and the channel is held GOOD (R98). -/
def State.takePassage (s : State) (n : RampNo) (k : LaneNo) (c : Chan) : State :=
  if (s.ramp n).passageChan k = some c ∧ ¬ (s.ramp n).hold ∧ (s.ramp n).heldHealth c = .good then
    (s.modRamp n fun r => r.takeVehicles 1).tryFlushExit n
  else s

/-- A queue-end report at one ramp (R101). -/
def Ramp.takeQueueEnd (r : Ramp) (c : Chan) (on : Bool) : Ramp :=
  if r.queueEndChan = some c then r.retime { r with qeOn := on } else r

/-- A demand report at one ramp: the lanes whose demand channel it is (R108). -/
def State.takeDemandAt (s : State) (n : RampNo) (c : Chan) (on : Bool) : State :=
  s.eachLane (s.ramp n).lanes fun k t => if (t.ramp n).demandChan k = some c then t.takeDemand n k on else t

/-- A health report at one ramp record: the health held for the channel, the queue hold and the queue-end presence that
follow from it (R98, R100, R101). -/
def Ramp.takeHealth (r : Ramp) (c : Chan) (h : Health) : Ramp :=
  if r.held.any fun p => decide (p.1 = c) then
    let t : Ramp := { r with held := r.held.map fun p => if p.1 = c then (c, h) else p }
    r.retime { t with hold := t.holdDerived }
  else r

/-- A health report at one ramp: the RPC's record, then the RSQ's demand health (R100, R108). -/
def State.takeHealthAt (s : State) (n : RampNo) (c : Chan) (h : Health) : State :=
  let t := s.modRamp n fun r => r.takeHealth c h
  t.eachLane (t.ramp n).lanes fun k u => if (u.ramp n).demandChan k = some c then u.takeDemandHealth n k h else u

/-- A health report taken by the RPC and the RSQ; the releases it may bring are judged at the end of its event (R46, R113). -/
def State.reportHealth (s : State) (c : Chan) (h : Health) : State := s.eachRamp (fun n t => t.takeHealthAt n c h)

/-- The demand channel of a lane of the ramp is this one. -/
def Ramp.callsOn (r : Ramp) (c : Chan) : Bool := r.lanes.any fun k => decide (r.demandChan k = some c)

/-- The release that a demand on report brings, at the ramp whose lane it calls (R112 to R114). -/
def State.releaseCalled (s : State) (c : Chan) : State :=
  s.eachRamp fun n t => if (t.ramp n).callsOn c then t.tryRelease n else t

/-- The releases that the reports of one event bring, judged when all of them have been taken: the arbiter of each ramp then grants
the lowest-numbered of the lanes that came to meet the conditions in it (R112, R113, log 15). -/
def State.releases (s : State) : State := s.eachRamp fun n t => t.tryRelease n

/-- The report of a qualification under a sampling kind, the release it may bring aside (R46). -/
def State.reportOn (s : State) (c : Chan) (k : Option Kind) : State :=
  match k with
  | some .entry => { s with ramps := s.ramps.map fun r => r.takeEntry c }
  | some .passage =>
    s.eachRamp (fun n t => t.eachLane (t.ramp n).lanes fun j u => u.takePassage n j c)
  | some .demand => s.eachRamp (fun n t => t.takeDemandAt n c true)
  | some .queueEnd => { s with ramps := s.ramps.map fun r => r.takeQueueEnd c true }
  | some .mainline => s
  | none => s

/-- The report of the end of a qualified presence (R46). -/
def State.reportOff (s : State) (c : Chan) (k : Option Kind) : State :=
  match k with
  | some .demand => s.eachRamp (fun n t => t.takeDemandAt n c false)
  | some .queueEnd => { s with ramps := s.ramps.map fun r => r.takeQueueEnd c false }
  | some .entry => s
  | some .passage => s
  | some .mainline => s
  | none => s

end Sys2Proof.Machine
end

