-- ==== Sys2Proof/Machine/Proving.lean ====
section
/-! DEFINITION. Lamp proving (07, R118 to R120): readings, declarations and how each is dealt with. -/

namespace Sys2Proof.Machine

/-- PROVING INPUT CHANGE: the inputs of a head become as given; the readings follow, and the mismatch starts, restarts or
clears (R118, R119). A change of readings taken before a declaration that is due leaves it to the mismatch now shown (log 30). While
RESET is low no reading is taken (R118). -/
def State.provingInputs (s : State) (h : HeadNo) (red green : Bool) : State :=
  let c := { s.head h with redPin := red, greenPin := green }
  if s.resetHeld then s.setHead h c
  else s.writeHead h { c with
    redProved := red, greenProved := green
    due := if red = c.redProved ∧ green = c.greenProved then c.due else none }

/-- PROVING INPUT CHANGE (R118). -/
def execProvingInputChange (h : HeadNo) (red green : Bool) (s : State) : Host.Outcome State Fault Refusal :=
  .next (s.provingInputs h red green)

/-- The fault due on a head: one held since its timer reached the tolerance, or the one that the tolerance in force declares now
(R119, log 30). A fault held since the tolerance of the closing window is declared under a new, higher tolerance too (log 55). -/
def State.faultDue (s : State) (h : HeadNo) : Option FaultClass :=
  match (s.head h).due with
  | some f => some f
  | none => (s.head h).declares s.settings.tolerance

/-- The head's lane is one of the lanes 1 to L of its ramp. -/
def State.laneInUse (s : State) (h : HeadNo) : Bool :=
  match (s.ramp (headRamp h)).plan with
  | none => false
  | some p => decide (headLane h ∈ p.laneList)

/-- How a declaration is dealt with (R120). -/
inductive FaultAction where
  | lockout
  | lockoutAgain
  | lamp
  | nothing
  deriving DecidableEq, Repr

/-- The class is one of those that lock a running ramp out (R33). -/
def FaultClass.locks (f : FaultClass) : Bool :=
  match f with
  | .redOut => true
  | .greenConflict => true
  | .greenOut => false
  | .strayRed => false

/-- The table of R120 for a head in use. A RED-OUT or a GREEN-OUT that was due as the ramp entered LOCKOUT is not declared under
DARK (R34, log 28). -/
def FaultClass.action (f : FaultClass) (r : Ramp) : FaultAction :=
  if r.running then
    if f.locks then .lockout else .lamp
  else if r.state = .lockout then
    match f with
    | .greenConflict => .lockoutAgain
    | .strayRed => .lockoutAgain
    | .redOut => .nothing
    | .greenOut => .nothing
  else .lamp

/-- The LAMP notice of a declaration (R120). -/
def State.lampNotice (s : State) (h : HeadNo) (f : FaultClass) : State :=
  s.raise .lamp h.val (.lamp f (s.head h).aspect (s.ramp (headRamp h)).state) true

/-- The table of R120 for any head: a head whose lane is not in use has a LAMP notice. -/
def State.actionFor (s : State) (h : HeadNo) (f : FaultClass) : FaultAction :=
  if s.laneInUse h then f.action (s.ramp (headRamp h)) else .lamp

/-- A declaration dealt with by the head's lane and its ramp's state (R33, R34, R120). -/
def State.dealWith (s : State) (h : HeadNo) (f : FaultClass) (a : FaultAction) : State :=
  match a with
  | .lockout => s.enterLockout (headRamp h) h f
  | .lockoutAgain => s.lockoutNotice (headRamp h) h f
  | .lamp => s.lampNotice h f
  | .nothing => s

/-- The context of a head on which a fault has been declared (R119). -/
def Head.declared (h : Head) (f : FaultClass) : Head := { h with lastFault := some f, standing := true, due := none }

/-- A due fault taken: declared, the last fault written and standing, and dealt with (R119, R120); or dropped, where the table of
R120 has it not arise. -/
def State.declare (s : State) (h : HeadNo) (f : FaultClass) : State :=
  if s.actionFor h f = .nothing then s.setHead h { s.head h with due := none }
  else (s.setHead h ((s.head h).declared f)).dealWith h f (s.actionFor h f)

/-- The declaration due on a head, if any. -/
def State.tryDeclare (s : State) (h : HeadNo) : State :=
  match s.faultDue h with
  | none => s
  | some f => s.declare h f

/-- PROVING FAULT DECLARED: nothing when no fault is due on the head (R119). -/
def execProvingFaultDeclared (h : HeadNo) (s : State) : Host.Outcome State Fault Refusal :=
  .next (s.running fun t => t.tryDeclare h)

/-- An operation made for each head in ascending order. -/
def State.eachHead (f : HeadNo → State → State) (s : State) : State := (List.finRange 48).foldl (fun t h => f h t) s

/-- The declarations held of the heads whose timers stand at the tolerance in force (R119, log 30). -/
def State.markDue (s : State) : State := { s with heads := s.heads.map (Head.markDue s.settings.tolerance) }

/-- A tolerance newly handed: every head whose timer is already at or above it declares in that event (R119), the heads in ascending
number: of two on one ramp the lower is the one that R33 calls the first, and the first of the two raises of R149 (log 42). A fault
already held as due is declared here whatever the new tolerance (log 55). -/
def State.declareAll (s : State) : State := s.markDue.eachHead fun h t => t.tryDeclare h

/-- The reading of every head's proving inputs: a standing mark is cleared on a head that shows no mismatch (R118, R119). -/
def State.readLamps (s : State) : State := s.eachHead fun h t => t.writeHead h (t.head h)

end Sys2Proof.Machine
end

