-- ==== Sys2Proof/Machine/Supervision.lean ====
section
/-! DEFINITION. Link supervision (08): the lapse of a link and what it drops (R131), CORRIDOR SET with its supervision times
(R58, R133). -/

namespace Sys2Proof.Machine

/-! ### The lapse (R130, R131) -/

/-- The supervision timer of a SUPERVISED link has reached its time, and the time is above 0 (R130). -/
def LinkCtx.lapseDue (c : LinkCtx) : Bool := c.supervised && decide (0 < c.supTime) && decide (c.supTime ≤ c.supTimer)

/-- What a lapse takes from a ramp: the authority the link held and the override it set (R131). -/
def Ramp.lapse (r : Ramp) (l : Link) : Ramp :=
  { r with
    authority := if r.authority = some l then none else r.authority
    override :=
      match r.override with
      | none => none
      | some o => if o.setBy = l then none else some o }

/-- What a lapse takes from a zone: its owner, when the link owns it (R82, R131). -/
def Zone.lapse (z : Zone) (l : Link) : Zone := { z with owner := if z.owner = some l then none else z.owner }

/-- A link lapses: UNSUPERVISED with its timer stopped at 0, its authorities, overrides and zones dropped, a SUPERVISION
notice live (R130, R131). -/
def State.lapse (s : State) (l : Link) : State :=
  let t := s.setLink l { s.link l with supervised := false, supTimer := 0 }
  ({ t with
    ramps := t.ramps.map fun r => r.lapse l
    zones := t.zones.map fun z => z.lapse l } : State).raise .supervision (linkIndex l) .none true

/-- A lapse, when it is due. -/
def State.tryLapse (s : State) (l : Link) : State := if (s.link l).lapseDue then s.lapse l else s

/-- SUPERVISION LAPSE: nothing when no lapse is due (R130, R131). -/
def execSupervisionLapse (l : Link) (s : State) : Host.Outcome State Fault Refusal :=
  .next (s.running fun t => t.tryLapse l)

/-! ### CORRIDOR SET (R58, R133, R143) -/

/-- A number in a closed range. -/
def inRange (lo hi v : Nat) : Bool := decide (lo ≤ v) && decide (v ≤ hi)

/-- The window source argument: 0 INTERNAL, 1 LINE (R143). -/
def sourceArg (b : Byte) : Option WindowSource :=
  if b = 0 then some .internal else if b = 1 then some .line else none

/-- The parameters of one kind as given. -/
def KindSettings.ofArgs (a : KindArgs) : KindSettings := ⟨a.debounce.toNat, a.maxOn.toNat, a.silent.toNat, a.chatter.toNat⟩

/-- The parameters of one kind lie in their ranges (R58). -/
def KindSettings.ok (k : KindSettings) : Bool :=
  inRange 1 20 k.debounce && inRange 10 1800 k.maxOn && inRange 0 255 k.silent && inRange 1 255 k.chatter

/-- The settings an accepted CORRIDOR SET carries; none when any lies outside its range (R58, R143). -/
def settingsArg (a : CorridorArgs) : Option Settings :=
  match sourceArg a.source with
  | none => none
  | some source =>
    let set : Settings :=
      { source := source
        length := a.length.toNat
        kinds := a.kinds.map KindSettings.ofArgs
        persistence := a.persistence.toNat
        recovery := a.recovery.toNat
        tolerance := a.tolerance.toNat }
    if inRange 10 60 set.length && set.kinds.cells.all KindSettings.ok && inRange 1 15 set.persistence &&
        inRange 1 60 set.recovery && inRange 10 100 set.tolerance && inRange 0 600 a.localTime.toNat &&
        inRange 0 600 a.centreTime.toNat then some set
    else none

/-- The supervision times installed; a SUPERVISED link whose timer stands at or above its new time lapses at once
(R133). -/
def State.installTimes (s : State) (loc centre : Nat) : State :=
  let t : State := { s with loc := { s.loc with supTime := loc }, centre := { s.centre with supTime := centre } }
  (t.tryLapse .loc).tryLapse .centre

/-- CORRIDOR SET at the DTU and the LIF (R58, R133). -/
def State.corridorSet (s : State) (a : CorridorArgs) : State × Reply :=
  match settingsArg a with
  | none => (s, .refuse .range)
  | some set =>
    (({ s with pendSettings := some set } : State).installTimes a.localTime.toNat a.centreTime.toNat, .done)

/-- CORRIDOR SET (R58, R133). -/
def execCorridorSet (l : Link) (a : CorridorArgs) (s : State) : Host.Outcome State Fault Refusal :=
  .next (s.frame l 0x30 fun t => t.corridorSet a)

end Sys2Proof.Machine
end

