-- ==== Sys2Proof/Machine/Detector.lean ====
section
/-! DEFINITION. The Detector Unit (03): presences (R44 to R47, R52, R53), the window close with fault checks, health, summary
and window start (R42, R48 to R56), and the reports and notices it makes (R46, R57). -/

namespace Sys2Proof.Machine

/-! ### Parameters -/

/-- The place of a kind in R143's order. -/
def Kind.index (k : Kind) : Fin 5 :=
  match k with
  | .mainline => 0
  | .entry => 1
  | .demand => 2
  | .passage => 3
  | .queueEnd => 4

/-- The parameters of one kind in force (R58). -/
def Settings.of (c : Settings) (k : Kind) : KindSettings := c.kinds.get k.index

/-- Some fault was seen. -/
def FaultSet.any (f : FaultSet) : Bool := f.stuckOn || f.silent || f.chatter

/-! ### Presences (R44, R45, R52, R53) -/

/-- A presence whose continuous on-time has reached the debounce is not yet qualified (R45); one in progress at a settling
start never is (R42). -/
def Channel.qualifyDue (r : Channel) (set : Settings) : Bool :=
  match r.sampling with
  | none => false
  | some k => r.presence && !r.qualified && !r.inProgress && decide ((set.of k).debounce ≤ r.contOn)

/-- The qualified mark set and the presence counted (R45). -/
def Channel.markQualified (r : Channel) : Channel := { r with qualified := true, counted := r.counted + 1 }

/-- The record with its presence qualified, when that is due (R45). -/
def Channel.qualify (r : Channel) (set : Settings) : Channel := if r.qualifyDue set then r.markQualified else r

/-- The presence qualified, when it is due: marked, counted, reported (R45, R46). -/
def State.noteQualified (s : State) (c : Chan) : State :=
  if (s.chan c).qualifyDue s.settings then
    (s.modChan c Channel.markQualified).reportOn c (s.chan c).sampling
  else s

/-- A qualification in an event of its own, with the release that a demand on report brings (R45, R46, R112). -/
def State.tryQualify (s : State) (c : Chan) : State :=
  if (s.chan c).qualifyDue s.settings ∧ (s.chan c).sampling = some .demand then (s.noteQualified c).releaseCalled c
  else s.noteQualified c

/-- A presence has reached the max-on and its stuck mark is not set (R52). -/
def Channel.stuckDue (r : Channel) (set : Settings) : Bool :=
  match r.sampling with
  | none => false
  | some k => r.presence && !r.stuck && decide ((set.of k).maxOn * 100 ≤ r.contOn)

/-- The stuck mark set and STUCK-ON added to the faults seen (R52). -/
def Channel.markStuck (r : Channel) : Channel := { r with stuck := true, faults := { r.faults with stuckOn := true } }

/-- The record once all that its last reading brought is taken: its qualification and its stuck mark (R45, R52). -/
def Channel.complete (r : Channel) (set : Settings) : Channel :=
  if (r.qualify set).stuckDue set then (r.qualify set).markStuck else r.qualify set

/-- A stuck presence marked, when it is due. -/
def State.tryStuck (s : State) (c : Chan) : State :=
  if (s.chan c).stuckDue s.settings then s.modChan c Channel.markStuck else s

/-- The record at an onset: the first reading of the presence (R44, R47, log 5). -/
def Channel.begin (r : Channel) : Channel :=
  if r.sampling.isSome then
    { r with
      pin := true, presence := true, contOn := 1, onTime := r.onTime + 1, inProgress := false, onsetNow := true }
  else { r with pin := true, presence := true }

/-- PRESENCE ONSET: nothing when the input is on already (R44). -/
def State.presenceOnset (s : State) (c : Chan) : State :=
  if (s.chan c).pin then s
  else if s.resetHeld then s.modChan c fun r => { r with pin := true }
  else (s.modChan c Channel.begin).tryQualify c

/-- PRESENCE ONSET (R44). -/
def execPresenceOnset (c : Chan) (s : State) : Host.Outcome State Fault Refusal := .next (s.presenceOnset c)

/-- PRESENCE QUALIFIED: nothing when no qualification is due (R45). -/
def execPresenceQualified (c : Chan) (s : State) : Host.Outcome State Fault Refusal :=
  .next (s.running fun t => t.tryQualify c)

/-- STUCK ON: nothing when the max-on is not reached (R52). -/
def execStuckOn (c : Chan) (s : State) : Host.Outcome State Fault Refusal :=
  .next (s.running fun t => t.tryStuck c)

/-- The record with the presence over (R44, R45, R52). -/
def Channel.presenceOver (r : Channel) : Channel :=
  { r with
    pin := false, presence := false, contOn := 0, qualified := false, stuck := false, inProgress := false,
    onsetNow := false }

/-- A short pulse counted, with CHATTER when the count passes the limit (R45, R53). -/
def Channel.shortPulse (r : Channel) (set : Settings) : Channel :=
  match r.sampling with
  | none => r
  | some k =>
    { r with
      shortPulses := r.shortPulses + 1
      faults := if (set.of k).chatter < r.shortPulses + 1 then { r.faults with chatter := true } else r.faults }

/-- The end of a presence whose qualification and stuck mark have been taken (R45, R46, R53). -/
def State.finishPresence (s : State) (c : Chan) : State :=
  if (s.chan c).qualified then (s.modChan c Channel.presenceOver).reportOff c (s.chan c).sampling
  else if (s.chan c).inProgress then s.modChan c Channel.presenceOver
  else s.modChan c fun r => (r.shortPulse s.settings).presenceOver

/-- PRESENCE END: nothing when the input is off already. A qualification or stuck mark that the last on reading brought is
taken first (R45, R52). -/
def State.presenceEnd (s : State) (c : Chan) : State :=
  if !(s.chan c).pin then s
  else if s.resetHeld then s.modChan c fun r => { r with pin := false }
  else ((s.tryQualify c).tryStuck c).finishPresence c

/-- PRESENCE END (R44, R45). -/
def execPresenceEnd (c : Chan) (s : State) : Host.Outcome State Fault Refusal := .next (s.presenceEnd c)

/-! ### The window close, channel by channel (R50) -/

/-- Step 1: the silent run and the SILENT check (R54). -/
def Channel.silentCheck (r : Channel) (set : Settings) : Channel :=
  match r.sampling with
  | none => r
  | some k =>
    let run := if r.counted = 0 then min (r.silentRun + 1) 255 else 0
    { r with
      silentRun := run
      faults := if 0 < (set.of k).silent ∧ (set.of k).silent ≤ run then { r.faults with silent := true } else r.faults }

/-- Step 2: the health of a channel whose kind is its sampling kind (R51, R55, R56). -/
def Channel.moveHealth (r : Channel) (set : Settings) : Channel :=
  if r.sampling = none ∨ r.kind ≠ r.sampling then r
  else
    match r.health with
    | .disabled => r
    | .settling => if r.healthCount = 0 then { r with healthCount := 1 } else { r with health := .good, healthCount := 0 }
    | .good =>
      if !r.faults.any then { r with healthCount := 0 }
      else if set.persistence ≤ 1 then { r with health := .failed, healthCount := 0 }
      else { r with health := .suspect, healthCount := 1 }
    | .suspect =>
      if !r.faults.any then { r with health := .good, healthCount := 0 }
      else if set.persistence ≤ r.healthCount + 1 then { r with health := .failed, healthCount := 0 }
      else { r with healthCount := r.healthCount + 1 }
    | .failed =>
      if r.faults.any then { r with healthCount := 0 }
      else if set.recovery ≤ r.healthCount + 1 then { r with health := .good, healthCount := 0 }
      else { r with healthCount := r.healthCount + 1 }

/-- Steps 1 and 2. -/
def Channel.judged (r : Channel) (set : Settings) : Channel := (r.silentCheck set).moveHealth set

/-- The occupancy of a window of W cs (R47). -/
def Channel.occupancy (r : Channel) (w : Nat) : Nat := min 1000 (r.onTime * 1000 / w)

/-- Step 3: the channel's entry in the summary, after step 2 (R51). -/
def Channel.entry (r : Channel) (w : Nat) : SummaryEntry :=
  if r.sampling = none then ⟨0, 0, .disabled, .empty⟩
  else if r.kind = none then ⟨r.occupancy w, r.counted, .disabled, r.faults⟩
  else if r.kind ≠ r.sampling then ⟨r.occupancy w, r.counted, .settling, r.faults⟩
  else if r.health = .settling then ⟨r.occupancy w, r.counted, .settling, r.faults⟩
  else if !r.faults.any ∧ r.health = .good then ⟨r.occupancy w, r.counted, .valid, .empty⟩
  else ⟨r.occupancy w, r.counted, .faulty, r.faults⟩

/-- The accumulators cleared, and the model's mark of changed references with them. -/
def Channel.clearWindow (r : Channel) : Channel :=
  { r with onTime := 0, counted := 0, shortPulses := 0, faults := .empty, refsChanged := false }

/-- The record of a channel that settles afresh; a presence on now is in progress (R42). -/
def Channel.settle (r : Channel) (k : Kind) : Channel :=
  { r.clearWindow with
    sampling := some k, health := .settling, healthCount := 0, silentRun := 0, stuck := false, qualified := false,
    contOn := 0, inProgress := r.presence, onsetNow := false }

/-- The record of a channel left with no reference (R42). -/
def Channel.disable (r : Channel) : Channel :=
  { r.clearWindow with
    sampling := none, health := .disabled, healthCount := 0, silentRun := 0, stuck := false, qualified := false,
    contOn := 0, inProgress := false, onsetNow := false }

/-- The record of a channel that carries on: STUCK-ON is seen at once while a stuck presence lasts (R42, R52). -/
def Channel.carryOn (r : Channel) (set : Settings) : Channel :=
  let t := r.clearWindow
  if (r.presence && r.stuck) || r.stuckDue set then t.markStuck else t

/-- Step 5 for one channel, under the settings now in force (R42). -/
def Channel.startWindow (r : Channel) (set : Settings) : Channel :=
  match r.sampling, r.kind with
  | none, none => { r with health := .disabled, healthCount := 0, refsChanged := false }
  | some _, none => r.disable
  | none, some k => r.settle k
  | some j, some k => if j = k then r.carryOn set else r.settle k

/-- The DETECTOR notice of a close for one channel, from the record before it and the record after step 2 (R57). -/
def Channel.notice (old mid : Channel) : Option (Detail × Bool) :=
  if mid.health = .failed then
    if old.health ≠ .failed then some (.detectorFailed mid.faults, true)
    else if mid.sampling ≠ none ∧ mid.kind ≠ mid.sampling then
      some (.detector (if mid.kind = none then .released else .kindChanged), false)
    else none
  else if old.health = .failed ∧ mid.health = .good then some (.detector .returned, false)
  else none

/-- A health report is made for the channel at this close: its health changed, its kind reached its sampling, or its
references changed while the kind was kept (R42, R46). -/
def Channel.reports (old new : Channel) : Bool :=
  decide (old.health ≠ new.health) || decide (old.kind ≠ old.sampling) || (old.sampling.isSome && old.refsChanged)

/-! ### The window close, whole (R50) -/

/-- An operation made for each channel in ascending order. -/
def State.eachChan (f : Chan → State → State) (s : State) : State := (List.finRange 64).foldl (fun t c => f c t) s

/-- The DETECTOR notices of a close (R57). -/
def State.detectorNotices (s : State) (old mid : Table Channel 64) : State :=
  s.eachChan fun c t =>
    match (old.get c).notice (mid.get c) with
    | none => t
    | some (d, live) => t.raise .detector c.val d live

/-- Steps 1 to 4: health, notices, summary n, and its publication to the ZNU (R50). -/
def State.publish (s : State) (w : Nat) : State :=
  let mid := s.chans.map fun r => r.judged s.settings
  let sum : Summary := ⟨s.winNum, w, mid.map fun r => r.entry w⟩
  let t : State := { s.detectorNotices s.chans mid with
    chans := mid.map fun r => { r with last := some (r.entry w) }
    lastClosed := some (s.winNum, w) }
  t.takeSummary sum

/-- Step 5: window n + 1 starts under the settings now installed (R42, R50, R58). -/
def State.startWindow (s : State) : State :=
  let set := s.pendSettings.getD s.settings
  { s with
    winNum := (s.winNum + 1) % 65536
    elapsed := 0
    settings := set
    pendSettings := none
    chans := s.chans.map fun r => r.startWindow set }

/-- The health reports of a close (R46, R50). -/
def State.healthReports (s : State) (old : Table Channel 64) : State :=
  s.eachChan fun c t => if (old.get c).reports (s.chan c) then t.reportHealth c (s.chan c).health else t

/-- A reading belongs whole to the window it was taken in: the qualifications and stuck marks of the readings taken before a close
are completed before it (R50, log 33). -/
def State.finishReadings (s : State) : State := (s.eachChan fun c t => (t.noteQualified c).tryStuck c).releases

/-- What follows the window start in the event of a close: the health reports (R46), the qualifications under a new debounce (R45),
the releases that these bring (R113), and under newly installed settings the declarations of the new tolerance (R119, log 15). -/
def State.afterStart (s : State) (old : Table Channel 64) (fresh : Bool) : State :=
  let t := ((s.healthReports old).eachChan fun c v => v.noteQualified c).releases
  if fresh then t.declareAll else t

/-- The window close of W cs: one event (R50), once the readings taken before it are complete. -/
def State.closeWindow (s : State) (w : Nat) : State :=
  let t := s.finishReadings
  ((t.publish w).startWindow).afterStart t.chans t.pendSettings.isSome

/-- Under INTERNAL the window timer has reached the length in force (R48). -/
def State.windowTimerDue (s : State) : Bool :=
  decide (s.settings.source = .internal) && decide (s.settings.length * 100 ≤ s.elapsed)

/-- WINDOW TIMER EXPIRY (R48). -/
def execWindowTimerExpiry (s : State) : Host.Outcome State Fault Refusal :=
  .next (s.running fun t => if t.windowTimerDue then t.closeWindow (t.settings.length * 100) else t)

/-- SYNC EDGE: disregarded under INTERNAL and before 500 cs (R48, R49). -/
def execSyncEdge (s : State) : Host.Outcome State Fault Refusal :=
  .next (s.running fun t =>
    if t.settings.source = .line ∧ 500 ≤ t.elapsed then t.closeWindow (min t.elapsed 9000) else t)

/-- Under LINE the elapsed time has reached 9000 cs (R49). -/
def State.selfCloseDue (s : State) : Bool := decide (s.settings.source = .line) && decide (9000 ≤ s.elapsed)

/-- WINDOW SELF CLOSE: W = 9000 and the SYNC notice with the number of the window closed (R49). -/
def execWindowSelfClose (s : State) : Host.Outcome State Fault Refusal :=
  .next (s.running fun t =>
    if t.selfCloseDue then (t.closeWindow 9000).raise .sync 0 (.sync t.winNum) false else t)

end Sys2Proof.Machine
end

