-- ==== Sys2Proof/Machine/Rate.lean ====
section
/-! DEFINITION. The metering rate (04): the inputs (R64 to R66), the four steps with the limiting term (R67 to R73), what the
update writes (R74, R75), the arrival of a bulletin (R61). -/

namespace Sys2Proof.Machine

/-- The demand flow credited to the slip: from the entry channel's count when its entry is VALID, otherwise Rprev (R65). -/
def Ramp.demand (r : Ramp) (p : Plan) (sum : Summary) : Nat :=
  match p.layout.entry with
  | none => r.applied
  | some c =>
    if (sum.entries.get c).validity = .valid then (sum.entries.get c).count * 360000 / sum.w else r.applied

/-- The local term: G · (target − Om) / 16 truncated toward zero (R68). -/
def localTerm (c : Control) (om : Nat) : Int := ((c.gain : Int) * ((c.target : Int) - (om : Int))).tdiv 16

/-- Step 1: the base value and its source (R67 to R69). -/
def Ramp.baseValue (r : Ramp) (p : Plan) (om : Option Nat) : Int × Limiting :=
  match r.override, om with
  | some o, _ => (clamp o.rate p.control.minRate (r.effMax.getD 0), .override)
  | none, some om => (r.applied + localTerm p.control om, .localTerm)
  | none, none => (p.control.fallback, .fallback)

/-- The ramp's share in a zone of a bulletin, when the zone's share list holds it (R70). -/
def Bulletin.share (b : Bulletin) (n : RampNo) (z : ZoneNo) : Option Nat :=
  match b.entries.find? fun e => decide (e.zone = z) with
  | none => none
  | some e => (e.shares.find? fun m => decide (m.1 = n)).map (·.2)

/-- One zone's limit: D less the share, or 0; it moves the value only when strictly below it (R70). -/
def zoneLimit (b : Bulletin) (n : RampNo) (d : Nat) (v : Int × Limiting) (z : ZoneNo) : Int × Limiting :=
  match b.share n z with
  | none => v
  | some share => if ((d - share : Nat) : Int) < v.1 then (((d - share : Nat) : Int), .zone z) else v

/-- Step 2: the zoned value; not worked with an override (R67, R70). -/
def Ramp.zonedValue (r : Ramp) (b : Bulletin) (n : RampNo) (d : Nat) (v : Int × Limiting) : Int × Limiting :=
  if r.override.isSome then v else (List.finRange 6).foldl (zoneLimit b n d) v

/-- The queue floor (R71). -/
def queueFloor (q target d w : Nat) : Nat := if target < q then d + (q - target) * 360000 / w else 0

/-- Step 3: the floored value (R71, R73). -/
def flooredValue (floor : Nat) (v : Int × Limiting) : Int × Limiting :=
  if v.1 < (floor : Int) then ((floor : Int), .queue) else v

/-- Step 4: the final value within the ramp's limits (R72, R73). -/
def finalValue (lo hi : Nat) (v : Int × Limiting) : Nat × Limiting :=
  if v.1 < (lo : Int) then (lo, .minimum) else if (hi : Int) < v.1 then (hi, .maximum) else (v.1.toNat, v.2)

/-- The rate update's result for a ramp: the final value and the limiting term (R64 to R73). -/
def Ramp.update (r : Ramp) (p : Plan) (n : RampNo) (sum : Summary) (b : Bulletin) : Nat × Limiting :=
  let d := r.demand p sum
  let base := r.baseValue p (sum.meanOccupancy p.layout.mainline)
  let zoned := r.zonedValue b n d base
  let floored := flooredValue (queueFloor r.q p.queue.target d sum.w) zoned
  finalValue p.control.minRate (r.effMax.getD 0) floored

/-- The record after an update in METERING (R74). -/
def Ramp.updateMetering (r : Ramp) (p : Plan) (n : RampNo) (sum : Summary) (b : Bulletin) : Ramp :=
  let v := r.update p n sum b
  { r.writeApplied p v.1 v.2 with computed := v.1, lastUpdate := some b.number }

/-- The record after an update in FLUSHING (R75). A share that the bulletin holds for a ramp that began FLUSHING after the evaluation
enters the computed rate (R70, R87, log 37). -/
def Ramp.updateFlushing (r : Ramp) (p : Plan) (n : RampNo) (sum : Summary) (b : Bulletin) : Ramp :=
  { r with computed := (r.update p n sum b).1, lastUpdate := some b.number }

/-- An amendment installed in FLUSHING sets the applied rate to the new effective max rate (R18). -/
def Ramp.installFlushing (r : Ramp) : Ramp :=
  if r.amendment.isNone then r
  else
    let t := r.installAmendment
    match t.plan with
    | none => t
    | some p => t.flushRates p

/-- The record of a METERING ramp after a bulletin: amendment, then update (R18, R61, R74). -/
def Ramp.bulletinMetering (r : Ramp) (n : RampNo) (sum : Summary) (b : Bulletin) : Ramp :=
  match r.installAmendment.plan with
  | none => r
  | some p => r.installAmendment.updateMetering p n sum b

/-- The record of a FLUSHING ramp after a bulletin: amendment, then update (R18, R61, R75). -/
def Ramp.bulletinFlushing (r : Ramp) (n : RampNo) (sum : Summary) (b : Bulletin) : Ramp :=
  match r.installFlushing.plan with
  | none => r
  | some p => r.installFlushing.updateFlushing p n sum b

/-- A bulletin at one ramp; the flush exit that an amendment may bring is made last (R61, R105). The green starts that the new interval
of an amendment brings to a FLUSHING ramp come after the update has read Q (log 54). An exit that was due before the bulletin,
its FLUSH HOLD REACHED not yet taken, is made here too, after the update, with the outcome R63 gives an exit taken after the bulletin
(the model's choice, log 46). -/
def State.bulletinAt (s : State) (n : RampNo) (sum : Summary) (b : Bulletin) : State :=
  match (s.ramp n).state with
  | .metering => (s.modRamp n fun r => r.bulletinMetering n sum b).takeInterval n
  | .flushing =>
    let t := s.modRamp n fun r => r.bulletinFlushing n sum b
    (if (s.ramp n).amendment.isSome then t.takeInterval n else t).tryFlushExit n
  | .vacant => s
  | .parked => s
  | .opening => s
  | .closing => s
  | .lockout => s

/-- A bulletin reaches the RPC (R61). -/
def State.takeBulletin (s : State) (sum : Summary) (b : Bulletin) : State :=
  s.eachRamp fun n t => t.bulletinAt n sum b

/-- BULLETIN ARRIVAL: the bulletin handed over longest ago; nothing when none is in transit (R61, R62). -/
def execBulletinArrival (s : State) : Host.Outcome State Fault Refusal :=
  .next (s.running fun t =>
    match t.transit with
    | [] => t
    | (sum, b) :: rest => ({ t with transit := rest } : State).takeBulletin sum b)

end Sys2Proof.Machine
end

