-- ==== Sys2Proof/Machine/RampEvents.lean ====
section
/-! DEFINITION. The timed events of a ramp and its lanes: WARN and START-RED (R25, R26), the queue alarm and the flush hold
(R102, R103, R105), the lane cycle (R111 to R117), the empty judgement (R104). A row whose condition does not hold changes
nothing (log 8). -/

namespace Sys2Proof.Machine

/-- The WARN timer has reached the warn time in force (R25). -/
def Ramp.warnDue (r : Ramp) : Bool :=
  match r.plan with
  | none => false
  | some p => decide (r.state = .opening) && decide (r.sub = some .warn) && decide (p.timing.warn ≤ r.subTimer)

/-- START-RED begins when WARN is over (R25). -/
def State.endWarn (s : State) (n : RampNo) : State :=
  match (s.ramp n).plan with
  | none => s
  | some p => s.enterStartRed n p

/-- WARN TIMER EXPIRY (R25). -/
def execWarnTimerExpiry (n : RampNo) (s : State) : Host.Outcome State Fault Refusal :=
  .next (s.running fun t => if (t.ramp n).warnDue then t.endWarn n else t)

/-- The START-RED timer has reached start red (R26). -/
def Ramp.startRedDue (r : Ramp) : Bool :=
  match r.plan with
  | none => false
  | some p => decide (r.state = .opening) && decide (r.sub = some .startRed) && decide (p.timing.startRed ≤ r.subTimer)

/-- METERING begins when START-RED is over (R26). -/
def State.endStartRed (s : State) (n : RampNo) : State :=
  match (s.ramp n).plan with
  | none => s
  | some p => s.enterMetering n p

/-- START-RED EXPIRY (R26). -/
def execStartRedExpiry (n : RampNo) (s : State) : Host.Outcome State Fault Refusal :=
  .next (s.running fun t => if (t.ramp n).startRedDue then t.endStartRed n else t)

/-- The continuous-on time has reached the dwell, by its own rise or by a REPLACE PLAN that lowered the dwell, and this run of
presence has not taken it (R102, R103, log 16). -/
def Ramp.dwellDue (r : Ramp) : Bool := decide (r.state ≠ .vacant) && r.dwellMet && !r.dwellTaken

/-- The dwell reached: in METERING the alarm, unless this run of presence has brought it (R102, log 16); Q at the storage capacity
in any other state (R103). -/
def State.takeDwell (s : State) (n : RampNo) : State :=
  match (s.ramp n).plan with
  | none => s
  | some p =>
    if (s.ramp n).state = .metering then
      if (s.ramp n).alarmTaken then s.modRamp n fun r => { r with dwellTaken := true } else s.takeAlarm n p
    else s.modRamp n fun r => { r with q := p.queue.storage, dwellTaken := true }

/-- QUEUE ALARM (R102, R103). -/
def execQueueAlarm (n : RampNo) (s : State) : Host.Outcome State Fault Refusal :=
  .next (s.running fun t => if (t.ramp n).dwellDue then t.takeDwell n else t)

/-- FLUSH HOLD REACHED: the exit, when Q is at most the target as well (R105). -/
def execFlushHoldReached (n : RampNo) (s : State) : Host.Outcome State Fault Refusal :=
  .next (s.running fun t => t.tryFlushExit n)

/-- LANE READY (R111). -/
def execLaneReady (n : RampNo) (k : LaneNo) (s : State) : Host.Outcome State Fault Refusal :=
  .next (s.running fun t => if t.laneReadyDue n k then t.laneBecomesReady n k else t)

/-- SPACING EXPIRY: the arbiter grants the lowest-numbered lane that is READY, called and spaced (R112, R113). -/
def execSpacingExpiry (n : RampNo) (k : LaneNo) (s : State) : Host.Outcome State Fault Refusal :=
  .next (s.running fun t => if t.spacingDue n k then t.tryRelease n else t)

/-- GREEN END (R115). -/
def execGreenEnd (n : RampNo) (k : LaneNo) (s : State) : Host.Outcome State Fault Refusal :=
  .next (s.running fun t => if t.greenEndDue n k then t.endGreens n k else t)

/-- SETTLE COMPLETE (R30, R116). -/
def execSettleComplete (n : RampNo) (s : State) : Host.Outcome State Fault Refusal :=
  .next (s.running fun t => t.trySettle n)

/-- The close green time has run (R31, R117). -/
def Ramp.closeGreenDue (r : Ramp) : Bool :=
  match r.plan with
  | none => false
  | some p => decide (r.state = .closing) && decide (r.sub = some .green) && decide (p.timing.closeGreen ≤ r.closeTimer)

/-- CLOSE GREEN END (R31, R117). -/
def execCloseGreenEnd (n : RampNo) (s : State) : Host.Outcome State Fault Refusal :=
  .next (s.running fun t => if (t.ramp n).closeGreenDue then t.endClosing n else t)

/-- EMPTY JUDGEMENT: the judgement that the demand-off times bring is reported, and the RPC takes the one in transit (R104). -/
def execEmptyJudgement (n : RampNo) (s : State) : Host.Outcome State Fault Refusal :=
  .next (s.running fun t => (t.reportEmpty n).takeEmpty n)

end Sys2Proof.Machine
end

