-- ==== Sys2Proof/Machine/Resets.lean ====
section
/-! DEFINITION. The PERMIT line (R37, R38) and the resets: the hard reset with its release (R1, R60, R147, R161) and RESTART
(R146), each with what it keeps. -/

namespace Sys2Proof.Machine

/-! ### PERMIT (R37, R38) -/

/-- The loss of PERMIT at the RPC: every running ramp stops, then the PERMIT notice, live (R37). -/
def State.losePermit (s : State) : State :=
  (({ s with permit := false } : State).eachRamp fun n t => t.permitStops n).raise .permit 0 .none true

/-- PERMIT LOSS: nothing when PERMIT is absent already; the line alone while RESET is low (R37). -/
def execPermitLoss (s : State) : Host.Outcome State Fault Refusal :=
  .next (if s.resetHeld then { s with permit := false } else if s.permit then s.losePermit else s)

/-- PERMIT RETURN: the ramps stay as they are; the PERMIT notice's live flag is cleared (R38). -/
def execPermitReturn (s : State) : Host.Outcome State Fault Refusal :=
  .next (if s.resetHeld then { s with permit := true }
    else if s.permit then s
    else ({ s with permit := true } : State).liveClear .permit 0)

/-! ### What both resets do (R22, R60, R95, R107, R121) -/

/-- A channel as a reset leaves it: only the input itself survives (R60). -/
def Channel.reset (r : Channel) : Channel := { Channel.resetRecord with pin := r.pin }

/-- A context as a reset leaves it: only the inputs and their last readings survive (R121). -/
def Head.reset (h : Head) : Head :=
  { Head.resetContext with
    redPin := h.redPin, greenPin := h.greenPin, redProved := h.redProved, greenProved := h.greenProved }

/-- The records of the RPC, DTU, ZNU and RSQ as both resets leave them; window 0 is the window in progress (R22, R60, R79,
R95, R107, R121). -/
def State.resetRecords (s : State) : State :=
  { s with
    ramps := Table.fill 16 Ramp.vacantRecord
    chans := s.chans.map Channel.reset
    zones := Table.fill 6 Zone.vacantRecord
    heads := s.heads.map Head.reset
    winNum := 0
    elapsed := 0
    lastClosed := none
    bulletin := none
    transit := []
    restartPending := false }

/-- The presence and proving inputs read afresh (R60, R121); with every channel DISABLED and every head DARK at mismatch 0,
nothing else follows from the readings. -/
def State.readInputs (s : State) : State :=
  { s with
    chans := s.chans.map fun r => { r with presence := r.pin }
    heads := s.heads.map fun h => { h with redProved := h.redPin, greenProved := h.greenPin } }

/-- The PERMIT notice when PERMIT is absent as a reset ends (R40). -/
def State.permitNotice (s : State) : State := if s.permit then s else s.raise .permit 0 .none true

/-! ### The hard reset (R134, R147, R155, R156, R162) -/

/-- A link context in the event of a hard reset: every kind masked, the pending set empty (R134, R147, R155). -/
def LinkCtx.hardReset (supTime : Nat) : LinkCtx := { LinkCtx.afterReset supTime with set := [] }

/-- A hard reset taken: the lines and the slots survive; a store in flight is over, its slot left DAMAGED (R159, R162). -/
def State.hardReset (s : State) : State :=
  { s.resetRecords with
    resetHeld := true
    loc := LinkCtx.hardReset 0
    centre := LinkCtx.hardReset 90
    settings := Settings.default
    pendSettings := none
    stage := Table.fill 4 none
    store := none
    scan := .idle }

/-- HARD RESET: power-on, or the RESET line goes low; nothing when it is low already (R147). -/
def execHardReset (s : State) : Host.Outcome State Fault Refusal :=
  .next (if s.resetHeld then s else s.hardReset)

/-- The release of the RESET line: the count is 0, window 0 starts, the inputs are read, the restore scan begins (R1, R40,
R60, R161). -/
def State.release (s : State) : State :=
  ((({ s with resetHeld := false, count := 0 } : State).readInputs).beginScan).permitNotice

/-- RESET RELEASE: nothing when the line is not held (R60). -/
def execResetRelease (s : State) : Host.Outcome State Fault Refusal :=
  .next (if s.resetHeld then s.release else s)

/-! ### RESTART (R134, R146, R155, R162) -/

/-- A link context in the event of a RESTART: IDLE, no receive frame, overrun clear, the pending set empty; supervision and
masks kept (R134, R146, R155). -/
def LinkCtx.restart (c : LinkCtx) : LinkCtx :=
  { c with linkState := .idle, rx := .absent, gap := 0, overrun := false, response := none, set := [] }

/-- The restore scan of a RESTART: at once, or when the store in flight completes (R159, R161). -/
def State.scanAfterRestart (s : State) : State :=
  match s.store with
  | none => s.beginScan
  | some _ => { s with scan := .afterStore }

/-- A RESTART taken: stage, slots, settings, masks and supervision are kept, pending settings installed (R60, R134, R146,
R155, R156, R162). -/
def State.restart (s : State) : State :=
  ((({ s.resetRecords with
      loc := s.loc.restart
      centre := s.centre.restart
      settings := s.pendSettings.getD s.settings
      pendSettings := none } : State).readInputs).scanAfterRestart).permitNotice

end Sys2Proof.Machine
end

