-- ==== Sys2Proof/Machine/Frames.lean ====
section
/-! DEFINITION. Frames on the links (09): the bytes of a frame (R135), its check (R136), the refusals of the LIF (R137), the
overrun (R138), the end of a response (R137, R146), RESTART (R146). -/

namespace Sys2Proof.Machine

/-! ### The LIF's own answers -/

/-- RESTART: LINK on the centre link; on the local link DONE, to be taken when the response has been sent (R146). -/
def execRestart (l : Link) (_unused : Byte) (s : State) : Host.Outcome State Fault Refusal :=
  .next (s.frame l 0x3F fun t =>
    match l with
    | .loc => ({ t with restartPending := true }, .done)
    | .centre => (t, .refuse .link))

/-- UNKNOWN COMMAND: a good frame whose code is unknown or whose length does not fit is answered FORMAT (R137). -/
def execUnknownCommand (l : Link) (code : Byte) (s : State) : Host.Outcome State Fault Refusal :=
  .next (s.frame l code fun t => (t, .refuse .format))

/-- A good LOOKUP whose group is outside 1 to 10 is answered RANGE (R142). -/
def State.badGroup (s : State) (l : Link) : State := s.frame l 0x10 fun t => (t, .refuse .range)

/-- A frame whose check fails: CHECK, the supervision timer not restarted; overrun on a busy link (R136, R138, R139). -/
def State.failCheck (s : State) (l : Link) (code : Byte) : State :=
  if (s.link l).busy then s.overrunFrame l
  else (s.setLink l { s.link l with rx := .absent, gap := 0 }).respond l code (.refuse .check)

/-- FRAME CHECK FAILURE (R136). -/
def execFrameCheckFailure (l : Link) (code : Byte) (s : State) : Host.Outcome State Fault Refusal :=
  .next (s.running fun t => t.failCheck l code)

/-- FRAME OVERRUN: nothing on a link that is not EXECUTING or REPLYING (R138). -/
def execFrameOverrun (l : Link) (s : State) : Host.Outcome State Fault Refusal :=
  .next (s.running fun t => if (t.link l).busy then t.overrunFrame l else t)

/-! ### The gap (R135) -/

/-- A receive frame dropped: absent, and a link in RECEIVING returns to IDLE (R135). -/
def LinkCtx.drop (c : LinkCtx) : LinkCtx :=
  { c with rx := .absent, gap := 0, linkState := if c.linkState = .receiving then .idle else c.linkState }

/-- The gap timer of a receive frame stands at 20 ms or more (R135, log 21). -/
def LinkCtx.gapRun (c : LinkCtx) : Bool := decide (c.rx ≠ .absent) && decide (2 ≤ c.gap)

/-- RECEIVE GAP TIMEOUT: nothing when no gap has run (R135). -/
def execReceiveGapTimeout (l : Link) (s : State) : Host.Outcome State Fault Refusal :=
  .next (s.running fun t => if (t.link l).gapRun then t.setLink l (t.link l).drop else t)

/-! ### The end of a response (R137, R146) -/

/-- A link whose response has been sent: IDLE, or RECEIVING while a receive frame is there (R137). -/
def LinkCtx.afterResponse (c : LinkCtx) : LinkCtx :=
  { c with linkState := if c.rx = .absent then .idle else .receiving, response := none }

/-- The last check byte of a response has been sent; on the local link this is when a RESTART is taken (R137, R146). -/
def State.responseSent (s : State) (l : Link) : State :=
  if (s.link l).linkState ≠ .replying then s
  else if l = .loc ∧ s.restartPending then s.restart
  else s.setLink l (s.link l).afterResponse

/-- RESPONSE SENT: nothing on a link that is not REPLYING (R137). -/
def execResponseSent (l : Link) (s : State) : Host.Outcome State Fault Refusal :=
  .next (s.running fun t => t.responseSent l)

/-! ### Bytes (R135, R136) -/

/-- What a byte does to a receive frame (R135). -/
inductive ByteEffect where
  /-- The receive frame becomes this one. -/
  | frame (rx : RxFrame)
  /-- The check is complete: the length byte with the payload, and the check as received. -/
  | complete (body : List Byte) (check : Word)
  deriving DecidableEq, Repr

/-- A byte after the start byte (R135): `bytes` are those taken since. -/
def assemble (bytes : List Byte) (b : Byte) : ByteEffect :=
  match bytes with
  | [] => if 2 ≤ b.toNat ∧ b.toNat ≤ 250 then .frame (.assembling [b]) else .frame .void
  | n :: _ =>
    if (bytes ++ [b]).length = n.toNat + 3 then
      .complete (bytes.take (n.toNat + 1)) (wordOf (bytes.getD (n.toNat + 1) 0) b)
    else .frame (.assembling (bytes ++ [b]))

/-- The effect of a byte on a receive frame (R135). -/
def RxFrame.take (r : RxFrame) (b : Byte) : ByteEffect :=
  match r with
  | .absent => if b = 0xC3 then .frame (.assembling []) else .frame .absent
  | .assembling bytes => assemble bytes b
  | .void => .frame .void

/-- A link with its receive frame changed: the gap timer restarts; an IDLE link with a frame begun becomes RECEIVING
(R135). -/
def LinkCtx.receive (c : LinkCtx) (rx : RxFrame) : LinkCtx :=
  { c with
    rx := rx
    gap := 0
    linkState := if c.linkState = .idle ∧ rx ≠ .absent then .receiving else c.linkState }

/-- A command that a frame spells, at its meaning (R137). -/
def runCommand (i : Instr) (s : State) : Host.Outcome State Fault Refusal :=
  match i with
  | .commission l r a b => execCommission l r a b s
  | .replacePlan l r a b => execReplacePlan l r a b s
  | .amend l r c t => execAmend l r c t s
  | .retire l r => execRetire l r s
  | .openRamp l r => execOpenRamp l r s
  | .closeRamp l r => execCloseRamp l r s
  | .clearLockout l r => execClearLockout l r s
  | .overrideRate l r v d => execOverrideRate l r v d s
  | .endOverride l r => execEndOverride l r s
  | .takeAuthority l r => execTakeAuthority l r s
  | .takeAuthorityAll l => execTakeAuthorityAll l s
  | .yieldAuthority l r => execYieldAuthority l r s
  | .yieldAuthorityAll l => execYieldAuthorityAll l s
  | .lookupRampStatus l x => execLookupRampStatus l x s
  | .lookupRampPlan l x => execLookupRampPlan l x s
  | .lookupChannel l x => execLookupChannel l x s
  | .lookupChannelSummary l x => execLookupChannelSummary l x s
  | .lookupZone l x => execLookupZone l x s
  | .lookupBulletinEntry l x => execLookupBulletinEntry l x s
  | .lookupSlotDirectory l x => execLookupSlotDirectory l x s
  | .lookupCorridorSettings l x => execLookupCorridorSettings l x s
  | .lookupLinkStatus l x => execLookupLinkStatus l x s
  | .lookupRestoreReport l x => execLookupRestoreReport l x s
  | .zoneDefine l a => execZoneDefine l a s
  | .zoneAmend l a => execZoneAmend l a s
  | .zoneDissolve l z => execZoneDissolve l z s
  | .corridorSet l a => execCorridorSet l a s
  | .stageWrite l k b => execStageWrite l k b s
  | .stageClear l x => execStageClear l x s
  | .stageFromRamp l r => execStageFromRamp l r s
  | .storeSlot l x => execStoreSlot l x s
  | .fetchSlot l x => execFetchSlot l x s
  | .eraseSlot l x => execEraseSlot l x s
  | .protectSlot l x => execProtectSlot l x s
  | .unprotectSlot l x => execUnprotectSlot l x s
  | .noticeQuery l x => execNoticeQuery l x s
  | .noticeClear l k x => execNoticeClear l k x s
  | .noticeClearAll l x => execNoticeClearAll l x s
  | .noticeMask l ks => execNoticeMask l ks s
  | .restart l x => execRestart l x s
  | .unknownCommand l c => execUnknownCommand l c s
  | .frameCheckFailure .. | .frameOverrun .. | .receiveGapTimeout .. | .responseSent .. | .presenceOnset ..
  | .presenceQualified .. | .presenceEnd .. | .stuckOn .. | .windowTimerExpiry | .syncEdge | .windowSelfClose
  | .bulletinArrival | .warnTimerExpiry .. | .startRedExpiry .. | .queueAlarm .. | .flushHoldReached ..
  | .laneReady .. | .spacingExpiry .. | .greenEnd .. | .settleComplete .. | .closeGreenEnd .. | .emptyJudgement ..
  | .provingInputChange .. | .provingFaultDeclared .. | .overrideExpiry .. | .supervisionLapse .. | .permitLoss
  | .permitReturn | .takeoverAssert | .takeoverWithdraw | .hardReset | .resetRelease | .restoreScanSlot
  | .storeCompletion .. | .byteReceived .. => .next s

/-- A good frame's payload taken as a command (R137, R142). -/
def takePayload (l : Link) (payload : List Byte) (s : State) : Host.Outcome State Fault Refusal :=
  match decodePayload l payload with
  | .command i => runCommand i s
  | .badGroup => .next (s.badGroup l)
  | .badShape => execUnknownCommand l (payload.headD 0) s

/-- The byte that completes the check is taken (R136): overrun on a busy link, CHECK when the check fails, otherwise the
payload. -/
def completeFrame (l : Link) (body : List Byte) (check : Word) (s : State) : Host.Outcome State Fault Refusal :=
  if (s.link l).busy then .next (s.overrunFrame l)
  else if crc16 body = check then takePayload l body.tail s
  else .next (s.failCheck l (body.tail.headD 0))

/-- BYTE RECEIVED (R135, R136); while RESET is low no byte is taken (R135, R147). -/
def execByteReceived (l : Link) (b : Byte) (s : State) : Host.Outcome State Fault Refusal :=
  if s.resetHeld then .next s
  else
    match (s.link l).rx.take b with
    | .frame rx => .next (s.setLink l ((s.link l).receive rx))
    | .complete body check => completeFrame l body check s

end Sys2Proof.Machine
end

