-- ==== Sys2Proof/Machine/Timebase.lean ====
section
/-! DEFINITION. The Timebase (R1): what one centisecond advances, and which timed events are due at an instant (logs 1, 2,
4). -/

namespace Sys2Proof.Machine

/-- A counter that stops rising at a cap. -/
def riseTo (cap v : Nat) : Nat := min cap (v + 1)

/-! ### Each centisecond -/

/-- The reading of a presence that is on; an onset's own reading is counted at the onset (R44, R47, log 5). -/
def Channel.read (r : Channel) : Channel :=
  if r.sampling.isSome && r.presence then
    if r.onsetNow then { r with onsetNow := false }
    else { r with contOn := riseTo 180000 r.contOn, onTime := r.onTime + 1 }
  else r

/-- The queue-end timers of a ramp that is not VACANT (R101). -/
def Ramp.timeQueueEnd (r : Ramp) : Ramp :=
  if r.state = .vacant then r
  else if r.effPresence then { r with contOn := riseTo 12000 r.contOn }
  else { r with contOff := riseTo 12000 r.contOff }

/-- The countdown of an override, its seconds counted from the event of the OVERRIDE; the end of the last second is the event of
its expiry, which removes it (R128). -/
def Override.count (o : Override) : Override :=
  match o.remaining with
  | none => o
  | some k =>
    if o.phase + 1 < 100 ∨ k ≤ 1 then { o with phase := riseTo 100 o.phase }
    else { o with phase := 0, remaining := some (k - 1) }

/-- What a centisecond advances in a ramp record. -/
def Ramp.tickCs (r : Ramp) : Ramp := { r.timeQueueEnd with override := r.override.map Override.count }

/-- The mismatch timer runs while the head shows a mismatch (R119). -/
def Head.tickCs (h : Head) : Head := if h.shown.isSome then { h with mismatch := riseTo 100 h.mismatch } else h

/-- The gap timer runs while a receive frame is assembling or void (R135, log 21). -/
def LinkCtx.tickCs (c : LinkCtx) : LinkCtx := if c.rx = .absent then c else { c with gap := c.gap + 1 }

/-- What every centisecond advances; the centisecond count rises for ever (R1, log 40). -/
def State.tickCs (s : State) : State :=
  { s with
    count := s.count + 1
    elapsed := s.elapsed + 1
    chans := s.chans.map Channel.read
    ramps := s.ramps.map Ramp.tickCs
    heads := s.heads.map Head.tickCs
    loc := s.loc.tickCs
    centre := s.centre.tickCs }

/-! ### Each decisecond and each second (R1) -/

/-- The head timers and the demand-off time (R104, R111). -/
def Head.tickDs (h : Head) : Head :=
  { h with
    sinceStart := riseTo 6000 h.sinceStart
    sinceEnd := riseTo 6000 h.sinceEnd
    demandOff := if h.demandTimed && !h.demandOn then riseTo 600 h.demandOff else h.demandOff }

/-- The START-RED timer and the close green timer (R26, R117). -/
def Ramp.tickDs (r : Ramp) : Ramp :=
  { r with
    subTimer := if r.sub = some .startRed then r.subTimer + 1 else r.subTimer
    closeTimer := if r.sub = some .green then r.closeTimer + 1 else r.closeTimer }

/-- What a decisecond tick advances. -/
def State.tickDs (s : State) : State := { s with heads := s.heads.map Head.tickDs, ramps := s.ramps.map Ramp.tickDs }

/-- The WARN timer (R25). -/
def Ramp.tickSecond (r : Ramp) : Ramp := if r.sub = some .warn then { r with subTimer := r.subTimer + 1 } else r

/-- The supervision timer of a SUPERVISED link (R130). -/
def LinkCtx.tickSecond (c : LinkCtx) : LinkCtx := if c.supervised then { c with supTimer := riseTo 600 c.supTimer } else c

/-- What a second tick advances. -/
def State.tickSecond (s : State) : State :=
  { s with ramps := s.ramps.map Ramp.tickSecond, loc := s.loc.tickSecond, centre := s.centre.tickSecond }

/-- One centisecond, with the decisecond tick at each multiple of 10 and the second tick at each multiple of 100 (R1). The readings
of its instant are taken here, before any window close of that instant (log 33). -/
def State.tick (s : State) : State :=
  let t := s.readLamps.tickCs.markDue
  let u := if t.count % 10 = 0 then t.tickDs else t
  if t.count % 100 = 0 then u.tickSecond else u

/-! ### The events due (log 1) -/

/-- An event when its condition holds. -/
def dueIf (b : Bool) (i : Instr) : List Instr := if b then [i] else []

/-- The events due on a channel. -/
def State.chanDue (s : State) (c : Chan) : List Instr :=
  dueIf ((s.chan c).qualifyDue s.settings) (.presenceQualified c) ++ dueIf ((s.chan c).stuckDue s.settings) (.stuckOn c)

/-- The events due on a lane. -/
def State.laneDue (s : State) (n : RampNo) (k : LaneNo) : List Instr :=
  dueIf (s.laneReadyDue n k) (.laneReady n k) ++ dueIf (s.spacingDue n k) (.spacingExpiry n k) ++
    dueIf (s.greenEndDue n k) (.greenEnd n k)

/-- The events due on a ramp. -/
def State.rampDue (s : State) (n : RampNo) : List Instr :=
  dueIf (s.ramp n).warnDue (.warnTimerExpiry n) ++ dueIf (s.ramp n).startRedDue (.startRedExpiry n) ++
    dueIf (s.ramp n).dwellDue (.queueAlarm n) ++ dueIf (s.ramp n).flushExitMet (.flushHoldReached n) ++
    (List.finRange 3).flatMap (s.laneDue n) ++ dueIf (s.settledDue n) (.settleComplete n) ++
    dueIf (s.ramp n).closeGreenDue (.closeGreenEnd n) ++ dueIf (s.judgementDue n) (.emptyJudgement n) ++
    dueIf (s.ramp n).overrideDone (.overrideExpiry n)

/-- The events due on a link; the gap has passed 20 ms (R135, log 21). -/
def State.linkDue (s : State) (l : Link) : List Instr :=
  dueIf (s.link l).lapseDue (.supervisionLapse l) ++
    dueIf (decide ((s.link l).rx ≠ .absent) && decide (3 ≤ (s.link l).gap)) (.receiveGapTimeout l)

/-- Every timed event due at this instant. -/
def State.due (s : State) : List Instr :=
  dueIf s.windowTimerDue .windowTimerExpiry ++ dueIf s.selfCloseDue .windowSelfClose ++
    (List.finRange 64).flatMap s.chanDue ++ (List.finRange 16).flatMap s.rampDue ++
    (List.finRange 48).flatMap (fun h => dueIf (s.faultDue h).isSome (.provingFaultDeclared h)) ++
    s.linkDue .loc ++ s.linkDue .centre

/-- The due event that is taken first: a free choice among several (log 2). -/
def State.choose (s : State) (first : Instr) (rest : List Instr) : Instr :=
  (first :: rest).getD (Config.tieBreak s.tieCount % (rest.length + 1)) first

end Sys2Proof.Machine
end

