-- ==== Sys2Proof/Machine/Dispatch.lean ====
section
/-! DEFINITION. exec: one arm for each row of the opcode table, each one direct call of its meaning. -/

namespace Sys2Proof.Machine

open Sys2Proof

def exec (i : Instr) (s : State) : Host.Outcome State Fault Refusal :=
  match i with
  | .commission l ramp source slot => Sys2Proof.Machine.execCommission l ramp source slot s
  | .replacePlan l ramp source slot => Sys2Proof.Machine.execReplacePlan l ramp source slot s
  | .amend l ramp control target => Sys2Proof.Machine.execAmend l ramp control target s
  | .retire l ramp => Sys2Proof.Machine.execRetire l ramp s
  | .openRamp l ramp => Sys2Proof.Machine.execOpenRamp l ramp s
  | .closeRamp l ramp => Sys2Proof.Machine.execCloseRamp l ramp s
  | .clearLockout l ramp => Sys2Proof.Machine.execClearLockout l ramp s
  | .overrideRate l ramp rate duration => Sys2Proof.Machine.execOverrideRate l ramp rate duration s
  | .endOverride l ramp => Sys2Proof.Machine.execEndOverride l ramp s
  | .takeAuthority l ramp => Sys2Proof.Machine.execTakeAuthority l ramp s
  | .takeAuthorityAll l => Sys2Proof.Machine.execTakeAuthorityAll l s
  | .yieldAuthority l ramp => Sys2Proof.Machine.execYieldAuthority l ramp s
  | .yieldAuthorityAll l => Sys2Proof.Machine.execYieldAuthorityAll l s
  | .lookupRampStatus l index => Sys2Proof.Machine.execLookupRampStatus l index s
  | .lookupRampPlan l index => Sys2Proof.Machine.execLookupRampPlan l index s
  | .lookupChannel l index => Sys2Proof.Machine.execLookupChannel l index s
  | .lookupChannelSummary l index => Sys2Proof.Machine.execLookupChannelSummary l index s
  | .lookupZone l index => Sys2Proof.Machine.execLookupZone l index s
  | .lookupBulletinEntry l index => Sys2Proof.Machine.execLookupBulletinEntry l index s
  | .lookupSlotDirectory l index => Sys2Proof.Machine.execLookupSlotDirectory l index s
  | .lookupCorridorSettings l index => Sys2Proof.Machine.execLookupCorridorSettings l index s
  | .lookupLinkStatus l index => Sys2Proof.Machine.execLookupLinkStatus l index s
  | .lookupRestoreReport l index => Sys2Proof.Machine.execLookupRestoreReport l index s
  | .zoneDefine l a => Sys2Proof.Machine.execZoneDefine l a s
  | .zoneAmend l a => Sys2Proof.Machine.execZoneAmend l a s
  | .zoneDissolve l zone => Sys2Proof.Machine.execZoneDissolve l zone s
  | .corridorSet l a => Sys2Proof.Machine.execCorridorSet l a s
  | .stageWrite l sect bytes => Sys2Proof.Machine.execStageWrite l sect bytes s
  | .stageClear l unused => Sys2Proof.Machine.execStageClear l unused s
  | .stageFromRamp l ramp => Sys2Proof.Machine.execStageFromRamp l ramp s
  | .storeSlot l slot => Sys2Proof.Machine.execStoreSlot l slot s
  | .fetchSlot l slot => Sys2Proof.Machine.execFetchSlot l slot s
  | .eraseSlot l slot => Sys2Proof.Machine.execEraseSlot l slot s
  | .protectSlot l slot => Sys2Proof.Machine.execProtectSlot l slot s
  | .unprotectSlot l slot => Sys2Proof.Machine.execUnprotectSlot l slot s
  | .noticeQuery l unused => Sys2Proof.Machine.execNoticeQuery l unused s
  | .noticeClear l kind subject => Sys2Proof.Machine.execNoticeClear l kind subject s
  | .noticeClearAll l unused => Sys2Proof.Machine.execNoticeClearAll l unused s
  | .noticeMask l kinds => Sys2Proof.Machine.execNoticeMask l kinds s
  | .restart l unused => Sys2Proof.Machine.execRestart l unused s
  | .unknownCommand l code => Sys2Proof.Machine.execUnknownCommand l code s
  | .frameCheckFailure l code => Sys2Proof.Machine.execFrameCheckFailure l code s
  | .frameOverrun l => Sys2Proof.Machine.execFrameOverrun l s
  | .receiveGapTimeout l => Sys2Proof.Machine.execReceiveGapTimeout l s
  | .responseSent l => Sys2Proof.Machine.execResponseSent l s
  | .presenceOnset c => Sys2Proof.Machine.execPresenceOnset c s
  | .presenceQualified c => Sys2Proof.Machine.execPresenceQualified c s
  | .presenceEnd c => Sys2Proof.Machine.execPresenceEnd c s
  | .stuckOn c => Sys2Proof.Machine.execStuckOn c s
  | .windowTimerExpiry => Sys2Proof.Machine.execWindowTimerExpiry s
  | .syncEdge => Sys2Proof.Machine.execSyncEdge s
  | .windowSelfClose => Sys2Proof.Machine.execWindowSelfClose s
  | .bulletinArrival => Sys2Proof.Machine.execBulletinArrival s
  | .warnTimerExpiry n => Sys2Proof.Machine.execWarnTimerExpiry n s
  | .startRedExpiry n => Sys2Proof.Machine.execStartRedExpiry n s
  | .queueAlarm n => Sys2Proof.Machine.execQueueAlarm n s
  | .flushHoldReached n => Sys2Proof.Machine.execFlushHoldReached n s
  | .laneReady n k => Sys2Proof.Machine.execLaneReady n k s
  | .spacingExpiry n k => Sys2Proof.Machine.execSpacingExpiry n k s
  | .greenEnd n k => Sys2Proof.Machine.execGreenEnd n k s
  | .settleComplete n => Sys2Proof.Machine.execSettleComplete n s
  | .closeGreenEnd n => Sys2Proof.Machine.execCloseGreenEnd n s
  | .emptyJudgement n => Sys2Proof.Machine.execEmptyJudgement n s
  | .provingInputChange h red green => Sys2Proof.Machine.execProvingInputChange h red green s
  | .provingFaultDeclared h => Sys2Proof.Machine.execProvingFaultDeclared h s
  | .overrideExpiry n => Sys2Proof.Machine.execOverrideExpiry n s
  | .supervisionLapse l => Sys2Proof.Machine.execSupervisionLapse l s
  | .permitLoss => Sys2Proof.Machine.execPermitLoss s
  | .permitReturn => Sys2Proof.Machine.execPermitReturn s
  | .takeoverAssert => Sys2Proof.Machine.execTakeoverAssert s
  | .takeoverWithdraw => Sys2Proof.Machine.execTakeoverWithdraw s
  | .hardReset => Sys2Proof.Machine.execHardReset s
  | .resetRelease => Sys2Proof.Machine.execResetRelease s
  | .restoreScanSlot => Sys2Proof.Machine.execRestoreScanSlot s
  | .storeCompletion readBackGood => Sys2Proof.Machine.execStoreCompletion readBackGood s
  | .byteReceived l b => Sys2Proof.Machine.execByteReceived l b s

end Sys2Proof.Machine
end

