-- ==== Sys2Proof/Machine/Idle.lean ====
section
/-! DEFINITION. What the block does when no command waits: one due event, or else one centisecond (log 1). -/

namespace Sys2Proof.Machine

/-- What the block does with an empty queue: nothing while RESET is low; one due event, chosen freely when several are due;
otherwise a centisecond passes (R1, logs 1 and 2). -/
def idle (s : State) : Host.Outcome State Fault Refusal :=
  if s.resetHeld then .next s
  else
    match s.due with
    | [] => .next s.tick
    | [i] => exec i s
    | i :: j :: rest => exec (s.choose i (j :: rest)) { s with tieCount := s.tieCount + 1 }

end Sys2Proof.Machine
end

