-- ==== Sys2Proof/Safety.lean ====
section
/-! DEFINITION. What counts as a safe and well-formed state of the part, in the terms claims use, and the words the statements
share: when a link takes a frame, what a reply leaves alone. -/

namespace Sys2Proof.Machine

/-! ### Invariants -/

/-- The law of R109: a head shows GREEN only while its ramp is METERING, FLUSHING or CLOSING and PERMIT is asserted. -/
def State.greenLaw (s : State) : Prop :=
  ∀ h : HeadNo, (s.head h).aspect = .green →
    ((s.ramp (headRamp h)).state = .metering ∨ (s.ramp (headRamp h)).state = .flushing ∨
      (s.ramp (headRamp h)).state = .closing) ∧ s.permit = true

/-- What holds the law of R109 together: a GREEN head has a ramp that may show it, a running ramp has PERMIT, and while
RESET is low every ramp is VACANT; and while it is low no window is timed: window 0 stands at its start (R60). -/
structure State.Guarded (s : State) : Prop where
  green : ∀ h : HeadNo, (s.head h).aspect = .green →
    (s.ramp (headRamp h)).state = .metering ∨ (s.ramp (headRamp h)).state = .flushing ∨
      (s.ramp (headRamp h)).state = .closing
  permit : ∀ n : RampNo, (s.ramp n).running = true → s.permit = true
  held : s.resetHeld = true → ∀ n : RampNo, (s.ramp n).state = .vacant
  window : s.resetHeld = true → s.winNum = 0 ∧ s.elapsed = 0

/-- A pending set in good form: in the order of NOTICE QUERY with one record for a kind and subject, every subject within
its kind's range (R149, R152). -/
def noticesOrdered : List Notice → Prop
  | [] => True
  | n :: rest =>
    n.subject < n.kind.subjects ∧ (∀ m ∈ rest, noticeKey n.kind n.subject < noticeKey m.kind m.subject) ∧
      noticesOrdered rest

/-- Both pending sets are in good form. -/
def State.setsOrdered (s : State) : Prop := noticesOrdered s.loc.set ∧ noticesOrdered s.centre.set

/-- What settling guarantees of an installed plan under its effective max rate, as far as the queue and the rates rest on it
(R5, R9, R10). -/
structure Plan.InRange (p : Plan) (effMax : Nat) : Prop where
  lanes : 1 ≤ p.layout.lanes ∧ p.layout.lanes ≤ 3
  flushHold : 1 ≤ p.queue.flushHold ∧ p.queue.flushHold ≤ 120
  target : p.queue.target ≤ p.queue.storage
  rates : p.control.minRate ≤ effMax

/-- The shape of a ramp record (R3, R19): a VACANT ramp holds the values of R3, any other ramp a plan with its effective max
rate, settled; the sub-phase is present in OPENING and CLOSING and absent elsewhere; while the effective queue-end presence
holds, the continuous-off time is 0 (R101); an amendment is pending in METERING and FLUSHING alone, settled against the plan
(R17, R18). -/
structure Ramp.Shaped (r : Ramp) : Prop where
  vacant : r.state = .vacant → r = Ramp.vacantRecord
  planned : r.state ≠ .vacant → r.plan.isSome ∧ r.effMax.isSome
  opening : r.state = .opening ↔ r.sub = some .warn ∨ r.sub = some .startRed
  closing : r.state = .closing ↔ r.sub = some .settle ∨ r.sub = some .green
  settled : ∀ p, r.plan = some p → p.InRange (r.effMax.getD 0)
  amended : ∀ a p, r.amendment = some a → r.plan = some p →
    a.control.minRate ≤ a.effMax ∧ a.queueTarget ≤ p.queue.storage
  pending : r.amendment ≠ none → r.state = .metering ∨ r.state = .flushing
  present : r.effPresence = true → r.contOff = 0

/-- Every ramp record has its shape, and no zone names a VACANT ramp (R3, R19, R86). -/
structure State.Shaped (s : State) : Prop where
  ramps : ∀ n : RampNo, (s.ramp n).Shaped
  members : ∀ z : ZoneNo, ∀ m ∈ (s.zone z).members, (s.ramp m.1).state ≠ .vacant
  additions : ∀ z : ZoneNo, ∀ m ∈ (s.zone z).additions, (s.ramp m.1).state ≠ .vacant

/-! ### What a step leaves alone -/

/-- Nothing but the records of channels, ramps, heads and zones and the two links differs. -/
structure RestSame (s t : State) : Prop where
  pending : t.pending = s.pending
  count : t.count = s.count
  resetHeld : t.resetHeld = s.resetHeld
  permit : t.permit = s.permit
  takeover : t.takeover = s.takeover
  tieCount : t.tieCount = s.tieCount
  restartPending : t.restartPending = s.restartPending
  winNum : t.winNum = s.winNum
  elapsed : t.elapsed = s.elapsed
  settings : t.settings = s.settings
  pendSettings : t.pendSettings = s.pendSettings
  lastClosed : t.lastClosed = s.lastClosed
  bulletin : t.bulletin = s.bulletin
  transit : t.transit = s.transit
  stage : t.stage = s.stage
  slots : t.slots = s.slots
  store : t.store = s.store
  scan : t.scan = s.scan
  report : t.report = s.report

/-- Nothing but ramp `n` with its three heads, and the two links, differs. -/
structure OnlyRamp (n : RampNo) (s t : State) : Prop extends RestSame s t where
  chans : t.chans = s.chans
  zones : t.zones = s.zones
  ramps : ∀ m, m ≠ n → t.ramp m = s.ramp m
  heads : ∀ h, headRamp h ≠ n → t.head h = s.head h

/-- Nothing but ramp `n` with its three heads, channel references, zone memberships, and the two links, differs. -/
structure OnlyRampAndRefs (n : RampNo) (s t : State) : Prop extends RestSame s t where
  chans : ∀ c, t.chan c = { s.chan c with refs := (t.chan c).refs, refsChanged := (t.chan c).refsChanged }
  zones : ∀ z, t.zone z = { s.zone z with members := (t.zone z).members, amendment := (t.zone z).amendment }
  ramps : ∀ m, m ≠ n → t.ramp m = s.ramp m
  heads : ∀ h, headRamp h ≠ n → t.head h = s.head h

/-- Every record of the corridor is as it was: only the links differ. -/
structure OnlyLinks (s t : State) : Prop extends RestSame s t where
  chans : t.chans = s.chans
  ramps : t.ramps = s.ramps
  heads : t.heads = s.heads
  zones : t.zones = s.zones

/-- The links differ in their pending sets alone. -/
def SetsOnly (s t : State) : Prop := ∀ l, t.link l = { s.link l with set := (t.link l).set }

/-! ### Commands -/

/-- The link takes a frame: the RESET line is not held, and the link is neither EXECUTING nor REPLYING (R136). -/
def State.takes (s : State) (l : Link) : Prop := s.resetHeld = false ∧ (s.link l).busy = false

/-- Link `k`'s pending set once a good frame on link `l` has made it SUPERVISED: the live flag of its SUPERVISION notice is
cleared when it was not (R132). -/
def State.setAfterFrame (s : State) (l k : Link) : List Notice :=
  if (s.link l).supervised then (s.link k).set else liveClearIn .supervision (linkIndex l) (s.link k).set

/-- Link `l` after its frame was answered: REPLYING with the response, its receive frame and overrun flag gone, SUPERVISED
with its timer restarted; the other link differs in its pending set alone (R130, R136 to R139). -/
structure Answered (s t : State) (l : Link) (code : Byte) (st : Status) (result : List Byte) : Prop where
  self : t.link l =
    { s.link l with
      linkState := .replying, rx := .absent, gap := 0, overrun := false, supervised := true, supTimer := 0
      set := (t.link l).set
      response := some
        ⟨st, ⟨(t.link l).noticePending, (s.link l).overrun, true, t.takeover, t.permit⟩, code, result⟩ }
  other : ∀ k, k ≠ l → t.link k = { s.link k with set := (t.link k).set }

/-- The command raised no notice: the pending sets are those the frame left. -/
def NoNotice (s t : State) (l : Link) : Prop := ∀ k, (t.link k).set = s.setAfterFrame l k

/-- Both pending sets hold the record of a kind and subject with this detail and live flag (R149). -/
def Raised (t : State) (k : NoticeKind) (subject : Nat) (d : Detail) (live : Bool) : Prop :=
  ∀ l, ∃ r ∈ (t.link l).set, r.kind = k ∧ r.subject = subject ∧ r.detail = d ∧ r.live = live

/-- No pending record of a kind and subject is live (R150). -/
def NotLive (t : State) (k : NoticeKind) (subject : Nat) : Prop :=
  ∀ l, ∀ r ∈ (t.link l).set, r.kind = k → r.subject = subject → r.live = false

/-- The command was refused: the response carries the status with an empty result, and nothing else changed (R139, R140). -/
structure Refused (s t : State) (l : Link) (code : Byte) (st : Status) : Prop extends OnlyLinks s t where
  answer : Answered s t l code st []
  quiet : NoNotice s t l

/-- A command's checks in order, each with the refusal it brings: the first that fails gives the answer, and `passed` holds
when none does. -/
def FirstRefusal (c : Instr) (s : State) (l : Link) (code : Byte) : List (Prop × Status) → Prop → Prop
  | [], passed => passed
  | (check, st) :: rest, passed =>
    (¬ check → ∃ t, exec c s = .next t ∧ Refused s t l code st) ∧ (check → FirstRefusal c s l code rest passed)

/-- Steps 4 to 6 of R12, of which COMMISSION and REPLACE PLAN answer the first refusal met: the source, the structural checks and
the channel conflicts. A VALID slot whose check value disagrees becomes DAMAGED in the event of the read (R157). -/
structure PlanRefused (c : Instr) (s : State) (l : Link) (code : Byte) (n : RampNo) (source slot : Byte) : Prop where
  stage : source = 0 → stageImage s.stage = none → ∃ t, exec c s = .next t ∧ Refused s t l code .incomplete
  noSlot : source = 1 ∧ slotArg slot = none ∨ source ≠ 0 ∧ source ≠ 1 →
    ∃ t, exec c s = .next t ∧ Refused s t l code .range
  read : ∀ k, source = 1 → slotArg slot = some k →
    FirstRefusal c s l code
      [(s.slotInFlight k = false, .busy), ((s.slot k).state ≠ .empty, .absent), ((s.slot k).state ≠ .damaged, .damaged)]
      ((s.slot k).agrees = false → ∃ t, exec c s = .next t ∧ t.slot k = { s.slot k with state := .damaged } ∧
        (∀ j, j ≠ k → t.slot j = s.slot j) ∧ t.ramps = s.ramps ∧ t.chans = s.chans ∧ t.heads = s.heads ∧
        t.zones = s.zones ∧ Answered s t l code .damaged [])
  plan : ∀ img, s.planSource source slot = (s, .ok img) →
    FirstRefusal c s l code
      [(structureOk n img = true, .range), (s.conflicts n (settlePlan n img).plan.layout.claims = false, .conflict)] True

/-- What R7 refuses of a ramp's claims: a channel twice; a channel that another ramp or a zone references with another kind; a channel
claimed with a kind other than MAINLINE that another ramp references. The ramp's own references do not count. -/
def State.Conflicting (s : State) (n : RampNo) (claims : List (Chan × Kind)) : Prop :=
  ¬ (claims.map (·.1)).Nodup ∨
    (∃ x ∈ claims, ∃ y ∈ (s.chan x.1).refs, y.1 ≠ .ramp n ∧ y.2 ≠ x.2) ∨
    ∃ x ∈ claims, x.2 ≠ .mainline ∧ ∃ y ∈ (s.chan x.1).refs, ∃ m, m ≠ n ∧ y.1 = .ramp m

/-- A CORRIDOR SET within its ranges, with the settings it carries (R58, R133, R143); a silent-window count and a chatter limit of one
byte cannot exceed 255. -/
structure SettingsCarried (a : CorridorArgs) (set : Settings) : Prop where
  source : a.source = 0 ∧ set.source = .internal ∨ a.source = 1 ∧ set.source = .line
  length : 10 ≤ a.length.toNat ∧ a.length.toNat ≤ 60 ∧ set.length = a.length.toNat
  kinds : ∀ i, 1 ≤ (a.kinds.get i).debounce.toNat ∧ (a.kinds.get i).debounce.toNat ≤ 20 ∧
    10 ≤ (a.kinds.get i).maxOn.toNat ∧ (a.kinds.get i).maxOn.toNat ≤ 1800 ∧ 1 ≤ (a.kinds.get i).chatter.toNat ∧
    set.kinds.get i = ⟨(a.kinds.get i).debounce.toNat, (a.kinds.get i).maxOn.toNat, (a.kinds.get i).silent.toNat,
      (a.kinds.get i).chatter.toNat⟩
  persistence : 1 ≤ a.persistence.toNat ∧ a.persistence.toNat ≤ 15 ∧ set.persistence = a.persistence.toNat
  recovery : 1 ≤ a.recovery.toNat ∧ a.recovery.toNat ≤ 60 ∧ set.recovery = a.recovery.toNat
  tolerance : 10 ≤ a.tolerance.toNat ∧ a.tolerance.toNat ≤ 100 ∧ set.tolerance = a.tolerance.toNat
  times : a.localTime.toNat ≤ 600 ∧ a.centreTime.toNat ≤ 600

/-! ### Time -/

/-- What one centisecond does, every record and timer of the part (R1): the centisecond timers at each count, the decisecond and second
timers at each multiple of 10 and of 100; a head that shows no mismatch has its mismatch timer at 0 and its standing mark clear, with
the live flag of its LAMP notice (R119, R120, R150). The override's countdown is stated with the override. -/
structure Ticked (s t : State) : Prop where
  rest : t = { s with
    count := s.count + 1, elapsed := s.elapsed + 1
    chans := t.chans, ramps := t.ramps, heads := t.heads, loc := t.loc, centre := t.centre }
  chans : ∀ c, t.chan c =
    if (s.chan c).sampling ≠ none ∧ (s.chan c).presence = true then
      if (s.chan c).onsetNow = true then { s.chan c with onsetNow := false }
      else { s.chan c with contOn := min 180000 ((s.chan c).contOn + 1), onTime := (s.chan c).onTime + 1 }
    else s.chan c
  ramps : ∀ n, t.ramp n = { s.ramp n with
    override := (t.ramp n).override
    contOn := if (s.ramp n).state ≠ .vacant ∧ (s.ramp n).effPresence = true then min 12000 ((s.ramp n).contOn + 1)
      else (s.ramp n).contOn
    contOff := if (s.ramp n).state ≠ .vacant ∧ (s.ramp n).effPresence = false then min 12000 ((s.ramp n).contOff + 1)
      else (s.ramp n).contOff
    subTimer :=
      if (s.ramp n).sub = some .startRed ∧ (s.count + 1) % 10 = 0 ∨ (s.ramp n).sub = some .warn ∧ (s.count + 1) % 100 = 0 then
        (s.ramp n).subTimer + 1
      else (s.ramp n).subTimer
    closeTimer := if (s.ramp n).sub = some .green ∧ (s.count + 1) % 10 = 0 then (s.ramp n).closeTimer + 1
      else (s.ramp n).closeTimer }
  heads : ∀ h, t.head h = { s.head h with
    sinceStart := if (s.count + 1) % 10 = 0 then min 6000 ((s.head h).sinceStart + 1) else (s.head h).sinceStart
    sinceEnd := if (s.count + 1) % 10 = 0 then min 6000 ((s.head h).sinceEnd + 1) else (s.head h).sinceEnd
    demandOff :=
      if (s.count + 1) % 10 = 0 ∧ (s.head h).demandTimed = true ∧ (s.head h).demandOn = false then
        min 600 ((s.head h).demandOff + 1)
      else (s.head h).demandOff
    mismatch := if (s.head h).shown = none then 0 else min 100 ((s.head h).mismatch + 1)
    standing := (s.head h).standing && (s.head h).shown.isSome
    due :=
      if (s.head h).shown ≠ none ∧ s.settings.tolerance ≤ min 100 ((s.head h).mismatch + 1) ∧
          ¬ ((s.head h).standing = true ∧ (s.head h).lastFault = (s.head h).shown) then
        (s.head h).shown
      else (s.head h).due }
  links : ∀ l, t.link l = { s.link l with
    gap := if (s.link l).rx = .absent then (s.link l).gap else (s.link l).gap + 1
    supTimer := if (s.link l).supervised = true ∧ (s.count + 1) % 100 = 0 then min 600 ((s.link l).supTimer + 1)
      else (s.link l).supTimer
    set := (s.link l).set.map fun r =>
      if ∃ h : HeadNo, r.kind = .lamp ∧ r.subject = h.val ∧ (s.head h).standing = true ∧ (s.head h).shown = none then
        { r with live := false }
      else r }

/-- A METERING or FLUSHING ramp is empty as R104 judges it: every lane READY, with a GOOD demand channel clear for the empty time. -/
def State.AllClear (s : State) (n : RampNo) (p : Plan) : Prop :=
  ((s.ramp n).state = .metering ∨ (s.ramp n).state = .flushing) ∧
    ∀ k ∈ p.laneList, (s.head (headOf n k)).cycle = .ready ∧ (p.layout.demand.get k).isSome = true ∧
      (s.head (headOf n k)).demandHealth = some .good ∧ p.queue.emptyTime ≤ (s.head (headOf n k)).demandOff

/-- In an event that took ramp `n` from `s` to `t`, the empty judgement was reported exactly when `t` is empty and no judgement stood
(R104, log 17); nothing else of the ramp's record moved. -/
structure EmptyReported (s t : State) (n : RampNo) (p : Plan) : Prop where
  reported : t.AllClear n p → (s.ramp n).emptyJudged = false →
    t.ramp n = { s.ramp n with emptyJudged := true, emptyPending := true }
  quiet : ¬ t.AllClear n p ∨ (s.ramp n).emptyJudged = true → t.ramp n = s.ramp n

/-- The condition of each timed row of the table, as its rule gives it; no other row is timed. -/
def State.timedRow (s : State) (i : Instr) : Prop :=
  match i with
  | .windowTimerExpiry => s.settings.source = .internal ∧ s.settings.length * 100 ≤ s.elapsed
  | .windowSelfClose => s.settings.source = .line ∧ 9000 ≤ s.elapsed
  | .presenceQualified c => ∃ k, (s.chan c).sampling = some k ∧ (s.chan c).presence = true ∧ (s.chan c).qualified = false ∧
      (s.chan c).inProgress = false ∧ (s.settings.of k).debounce ≤ (s.chan c).contOn
  | .stuckOn c => ∃ k, (s.chan c).sampling = some k ∧ (s.chan c).presence = true ∧ (s.chan c).stuck = false ∧
      (s.settings.of k).maxOn * 100 ≤ (s.chan c).contOn
  | .warnTimerExpiry n => ∃ p, (s.ramp n).plan = some p ∧ (s.ramp n).state = .opening ∧ (s.ramp n).sub = some .warn ∧
      p.timing.warn ≤ (s.ramp n).subTimer
  | .startRedExpiry n => ∃ p, (s.ramp n).plan = some p ∧ (s.ramp n).state = .opening ∧ (s.ramp n).sub = some .startRed ∧
      p.timing.startRed ≤ (s.ramp n).subTimer
  | .queueAlarm n => ∃ p, (s.ramp n).plan = some p ∧ (s.ramp n).state ≠ .vacant ∧ (s.ramp n).effPresence = true ∧
      p.queue.dwell * 100 ≤ (s.ramp n).contOn ∧ (s.ramp n).dwellTaken = false
  | .flushHoldReached n => ∃ p, (s.ramp n).plan = some p ∧ (s.ramp n).state = .flushing ∧
      p.queue.flushHold * 100 ≤ (s.ramp n).contOff ∧ (s.ramp n).q ≤ p.queue.target
  | .laneReady n k => ∃ p, (s.ramp n).plan = some p ∧ k ∈ p.laneList ∧
      ((s.ramp n).state = .metering ∨ (s.ramp n).state = .flushing ∨
        (s.ramp n).state = .closing ∧ (s.ramp n).sub = some .settle) ∧
      (s.head (headOf n k)).cycle = .hold ∧ (s.ramp n).interval k ≤ (s.head (headOf n k)).sinceStart ∧
      p.timing.minRed ≤ (s.head (headOf n k)).sinceEnd
  | .spacingExpiry n k => ∃ p, (s.ramp n).plan = some p ∧ k ∈ p.laneList ∧ p.layout.order = .staggered ∧
      ((s.ramp n).state = .metering ∨ (s.ramp n).state = .flushing) ∧ s.releasable n p k = true
  | .greenEnd n k => ∃ p, (s.ramp n).plan = some p ∧ k ∈ p.laneList ∧ (s.head (headOf n k)).cycle = .green ∧
      p.timing.green ≤ (s.head (headOf n k)).sinceStart
  | .settleComplete n => ∃ p, (s.ramp n).plan = some p ∧ (s.ramp n).state = .closing ∧ (s.ramp n).sub = some .settle ∧
      ∀ k ∈ p.laneList, ((s.head (headOf n k)).cycle = .hold ∨ (s.head (headOf n k)).cycle = .ready) ∧
        p.timing.minRed ≤ (s.head (headOf n k)).sinceEnd
  | .closeGreenEnd n => ∃ p, (s.ramp n).plan = some p ∧ (s.ramp n).state = .closing ∧ (s.ramp n).sub = some .green ∧
      p.timing.closeGreen ≤ (s.ramp n).closeTimer
  | .emptyJudgement n => (s.ramp n).emptyPending = true ∨
      ∃ p, (s.ramp n).plan = some p ∧ (s.ramp n).emptyJudged = false ∧ s.AllClear n p
  | .provingFaultDeclared h => (s.head h).due ≠ none ∨
      (s.head h).shown ≠ none ∧ s.settings.tolerance ≤ (s.head h).mismatch ∧
        ¬ ((s.head h).standing = true ∧ (s.head h).lastFault = (s.head h).shown)
  | .overrideExpiry n => ∃ o k, (s.ramp n).override = some o ∧ o.remaining = some k ∧ k ≤ 1 ∧ 100 ≤ o.phase
  | .supervisionLapse l => (s.link l).supervised = true ∧ 0 < (s.link l).supTime ∧ (s.link l).supTime ≤ (s.link l).supTimer
  | .receiveGapTimeout l => (s.link l).rx ≠ .absent ∧ 3 ≤ (s.link l).gap
  | _ => False

/-! ### Plans and their settling -/

/-- What R5 asks of an image for ramp `n`; a channel field is 0 to 63, or 255 for absent (R148). -/
structure Structured (n : RampNo) (img : Table Byte 64) : Prop where
  bound : byteAt img 0 = n.val
  lanes : 1 ≤ byteAt img 1 ∧ byteAt img 1 ≤ 3
  mainline : ∃ i ∈ [4, 5, 6, 7], byteAt img i < 64
  fields : ∀ i ∈ [4, 5, 6, 7, 8, 9], byteAt img i < 64 ∨ byteAt img i = 255
  laneFields : ∀ k : LaneNo, k.val < byteAt img 1 → ∀ i ∈ [10 + 2 * k.val, 11 + 2 * k.val],
    byteAt img i < 64 ∨ byteAt img i = 255

/-- The value that a plan holds in a field that can carry a trimmed mark (R11). -/
def Plan.value (p : Plan) (f : PlanField) : Nat :=
  match f with
  | .v => p.layout.v
  | .green => p.timing.green
  | .minRed => p.timing.minRed
  | .warn => p.timing.warn
  | .startRed => p.timing.startRed
  | .closeGreen => p.timing.closeGreen
  | .targetOcc => p.control.target
  | .gain => p.control.gain
  | .minRate => p.control.minRate
  | .maxRate => p.control.maxRate
  | .startRate => p.control.startRate
  | .fallback => p.control.fallback
  | .storage => p.queue.storage
  | .queueTarget => p.queue.target
  | .dwell => p.queue.dwell
  | .flushHold => p.queue.flushHold
  | .emptyTime => p.queue.emptyTime

/-- The fields in which a settled plan differs from the plan as written, in the order of their image offsets (R11). -/
def Plan.changed (written p : Plan) : List PlanField := PlanField.all.filter fun f => decide (written.value f ≠ p.value f)

/-- A CONTROL section settled from the one written, with the effective max rate, under settled lanes and timing (R9). -/
structure ControlSettled (written : Control) (lanes v green minRed : Nat) (c : Control) (eff : Nat) : Prop where
  target : c.target = max 50 (min 500 written.target)
  gain : c.gain = min 255 written.gain
  maxRate : c.maxRate = max 60 (min 5400 written.maxRate)
  effMax : eff = min c.maxRate (36000 * lanes * v / (green + minRed))
  minRate : c.minRate = min eff (max 60 (min 3600 written.minRate))
  startRate : c.startRate = max c.minRate (min eff (max 60 (min 5400 written.startRate)))
  fallback : c.fallback = max c.minRate (min eff (max 60 (min 5400 written.fallback)))

/-- The CONTROL section at an offset of an image or of a command's bytes (R141, R148). -/
def controlAt {m : Nat} (t : Table Byte m) (i : Nat) : Control :=
  ⟨wordAt t i, byteAt t (i + 2), wordAt t (i + 3), wordAt t (i + 5), wordAt t (i + 7), wordAt t (i + 9)⟩

/-- A plan read from an image (R148) and settled for ramp `n` by R6 and R8 to R10, with the claims of R7 and the marks of R11. -/
structure SettledFrom (n : RampNo) (img : Table Byte 64) (x : Settled) : Prop where
  bound : x.plan.layout.bound = n
  lanes : x.plan.layout.lanes = byteAt img 1
  v : x.plan.layout.v = max 1 (min 2 (byteAt img 2))
  order : x.plan.layout.order = .staggered ↔ byteAt img 3 % 2 = 1
  autoRestore : x.plan.layout.autoRestore = true ↔ byteAt img 3 / 2 % 2 = 1
  autoOpen : x.plan.layout.autoOpen = true ↔ byteAt img 3 / 4 % 2 = 1
  mainline : ∀ (i : Fin 4) (c : Chan), x.plan.layout.mainFields.get i = some c ↔ byteAt img (4 + i.val) = c.val
  entry : ∀ c : Chan, x.plan.layout.entry = some c ↔ byteAt img 8 = c.val
  queueEnd : ∀ c : Chan, x.plan.layout.queueEnd = some c ↔ byteAt img 9 = c.val
  demand : ∀ (k : LaneNo) (c : Chan), x.plan.layout.demand.get k = some c ↔
    k.val < byteAt img 1 ∧ byteAt img (10 + 2 * k.val) = c.val
  passage : ∀ (k : LaneNo) (c : Chan), x.plan.layout.passage.get k = some c ↔
    k.val < byteAt img 1 ∧ byteAt img (11 + 2 * k.val) = c.val
  claims : ∀ (c : Chan) (k : Kind), (c, k) ∈ x.plan.layout.claims ↔
    k = .mainline ∧ (∃ i, x.plan.layout.mainFields.get i = some c) ∨ k = .entry ∧ x.plan.layout.entry = some c ∨
      k = .queueEnd ∧ x.plan.layout.queueEnd = some c ∨ k = .demand ∧ (∃ j, x.plan.layout.demand.get j = some c) ∨
      k = .passage ∧ ∃ j, x.plan.layout.passage.get j = some c
  timing : x.plan.timing = ⟨max 10 (min 60 (byteAt img 16)), max 10 (min 100 (byteAt img 17)), min 600 (wordAt img 18),
    max x.plan.timing.minRed (max 10 (min 300 (wordAt img 20))), min 300 (wordAt img 22)⟩
  control : ControlSettled (controlAt img 32) x.plan.layout.lanes x.plan.layout.v x.plan.timing.green x.plan.timing.minRed
    x.plan.control x.effMax
  queue : x.plan.queue = ⟨max 5 (min 250 (byteAt img 48)), min x.plan.queue.storage (byteAt img 49),
    max 1 (min 120 (byteAt img 50)), max 1 (min 120 (byteAt img 51)), max 10 (min 600 (wordAt img 52))⟩
  ordered : x.plan.timing.minRed ≤ x.plan.timing.startRed ∧ x.plan.queue.target ≤ x.plan.queue.storage ∧ 60 ≤ x.effMax ∧
    x.plan.control.minRate ≤ x.effMax ∧ x.plan.control.minRate ≤ x.plan.control.startRate ∧
    x.plan.control.startRate ≤ x.effMax ∧ x.plan.control.minRate ≤ x.plan.control.fallback ∧
    x.plan.control.fallback ≤ x.effMax
  marks : x.marks = Plan.changed
    ⟨{ x.plan.layout with v := byteAt img 2 },
      ⟨byteAt img 16, byteAt img 17, wordAt img 18, wordAt img 20, wordAt img 22⟩, controlAt img 32,
      ⟨byteAt img 48, byteAt img 49, byteAt img 50, byteAt img 51, wordAt img 52⟩⟩ x.plan

/-! ### Reaching VACANT and the end of CLOSING -/

/-- The rates and intervals are those the ramp had (R20). -/
def RatesKept (r u : Ramp) : Prop :=
  u.applied = r.applied ∧ u.computed = r.computed ∧ u.limiting = r.limiting ∧ u.intervals = r.intervals

/-- Ramp `n` is VACANT with the record of R3, its references and memberships gone, its heads DARK (R3, R14, R86). -/
structure Vacated (s t : State) (n : RampNo) : Prop extends OnlyRampAndRefs n s t where
  record : t.ramp n = Ramp.vacantRecord
  refs : ∀ c, (t.chan c).refs = (s.chan c).refs.filter fun p => decide (p.1 ≠ .ramp n)
  members : ∀ z, (t.zone z).members = (s.zone z).members.filter fun m => decide (m.1 ≠ n)
  additions : ∀ z, (t.zone z).additions = (s.zone z).additions.filter fun m => decide (m.1 ≠ n)
  dark : ∀ k, (t.head (headOf n k)).aspect = .dark

/-- Ramp `n` left CLOSING or went straight through it: PARKED with stopped cause CLOSED, or VACANT when its retirement was
pending; its heads DARK (R31). -/
def ClosingOver (s t : State) (n : RampNo) (retire : Bool) : Prop :=
  (retire = false →
    (t.ramp n).state = .parked ∧ (t.ramp n).sub = none ∧ (t.ramp n).stopped = some .closed ∧
      RatesKept (s.ramp n) (t.ramp n) ∧ (∀ k, (t.head (headOf n k)).aspect = .dark) ∧
      Raised t .rampState n.val (.rampState .parked .closingEnded) false ∧ OnlyRamp n s t) ∧
  (retire = true → Vacated s t n ∧ Raised t .rampState n.val (.rampState .vacant .closingEnded) false)

/-! ### Green starts -/

/-- The lanes of a release whose green starts take V vehicles off Q: while the hold is clear, those that have no passage channel, or
one that is held as anything but GOOD (R99). -/
def Ramp.takingOff (r : Ramp) (lanes : List LaneNo) : List LaneNo :=
  lanes.filter fun k => decide (r.hold = false ∧ ∀ c, r.passageChan k = some c → r.heldHealth c ≠ .good)

/-- Q after the green starts of these lanes (R99). -/
def Ramp.qAfter (r : Ramp) (p : Plan) (lanes : List LaneNo) : Nat := r.q - p.layout.v * (r.takingOff lanes).length

/-- The green starts of these lanes bring the flush exit: one of them took vehicles off Q and both its conditions then hold (R105). -/
def Ramp.flushEnds (r : Ramp) (p : Plan) (lanes : List LaneNo) : Prop :=
  r.takingOff lanes ≠ [] ∧ r.state = .flushing ∧ p.queue.flushHold * 100 ≤ r.contOff ∧ r.qAfter p lanes ≤ p.queue.target

/-- These lanes of ramp `n` went GREEN in one event, with what their green starts do to the ramp's record (R99, R105, R112 to R115): an
empty judgement no longer stands (log 17), and the rest of the record is kept. -/
structure GreenStarted (s t : State) (n : RampNo) (p : Plan) (lanes : List LaneNo) : Prop where
  green : ∀ k ∈ lanes, (t.head (headOf n k)).cycle = .green ∧ (t.head (headOf n k)).sinceStart = 0
  stays : ¬ (s.ramp n).flushEnds p lanes →
    t.ramp n = { s.ramp n with q := (s.ramp n).qAfter p lanes, emptyJudged := false }
  exits : (s.ramp n).flushEnds p lanes →
    t.ramp n = { s.ramp n with q := (s.ramp n).qAfter p lanes, emptyJudged := false, state := .metering } ∧
      Raised t .rampState n.val (.rampState .metering .flushEnded) false ∧ NotLive t .flush n.val

/-! ### New intervals -/

/-- A lane's head, compared with the interval in force (R111): HOLD to READY, READY back to HOLD, or as it was. -/
structure Head.Compared (old new : Head) (interval minRed : Nat) : Prop where
  readies : old.cycle = .hold → interval ≤ old.sinceStart → minRed ≤ old.sinceEnd →
    new = old.reprove { old with cycle := .ready }
  holds : old.cycle = .ready → old.sinceStart < interval → new = old.reprove { old with cycle := .hold }
  stays : ¬ (old.cycle = .hold ∧ interval ≤ old.sinceStart ∧ minRed ≤ old.sinceEnd) →
    ¬ (old.cycle = .ready ∧ old.sinceStart < interval) → new = old

/-- Ramp `n` took new intervals, with Q at `q` as they were taken (R74, R110 to R114): every lane compared with the interval `t` has in
force, then the release that may follow, which takes what R99 gives off Q. A lane back in HOLD and a release end an empty judgement,
and lanes that are all READY then may bring one, which is in transit until it is taken (R104, log 17). -/
def IntervalTaken (s t : State) (n : RampNo) (p : Plan) (q : Nat) : Prop :=
  ∃ u : State,
    u.ramp n = { t.ramp n with
      q := q
      emptyJudged := (s.ramp n).emptyJudged && decide (∀ k ∈ p.laneList,
        ¬ ((s.head (headOf n k)).cycle = .ready ∧ (s.head (headOf n k)).sinceStart < (t.ramp n).interval k))
      emptyPending := (s.ramp n).emptyPending } ∧
    (∀ k ∈ p.laneList,
      (s.head (headOf n k)).Compared (u.head (headOf n k)) ((t.ramp n).interval k) p.timing.minRed) ∧
    (∀ k, k ∉ p.laneList → u.head (headOf n k) = s.head (headOf n k)) ∧
    (t.ramp n).q = (u.ramp n).qAfter p (u.lanesToRelease n p) ∧
    ((t.ramp n).emptyJudged = true ↔ (u.ramp n).emptyJudged = true ∧ u.lanesToRelease n p = [] ∨ t.AllClear n p) ∧
    ((t.ramp n).emptyPending = true ↔ (s.ramp n).emptyPending = true ∨
      t.AllClear n p ∧ ¬ ((u.ramp n).emptyJudged = true ∧ u.lanesToRelease n p = [])) ∧
    ∀ k, t.head (headOf n k) =
      if k ∈ u.lanesToRelease n p then
        (u.head (headOf n k)).reprove { u.head (headOf n k) with cycle := .green, sinceStart := 0 }
      else u.head (headOf n k)

/-! ### Reports and window closes -/

/-- A ramp that has taken a queue-end report: both timers start from 0 when the effective presence changes, and the new run has
brought neither its dwell nor its alarm (R101, R102). -/
def Ramp.queueEndReported (r : Ramp) (on : Bool) : Ramp :=
  if ({ r with qeOn := on } : Ramp).effPresence = r.effPresence then { r with qeOn := on }
  else { r with qeOn := on, contOn := 0, contOff := 0, dwellTaken := false, alarmTaken := false }

/-- The head's lane is one of lanes 1 to L of its ramp, and its demand channel is this one (R108). -/
def State.demandOf (s : State) (c : Chan) (h : HeadNo) : Prop :=
  headLane h ∈ (s.ramp (headRamp h)).lanes ∧ (s.ramp (headRamp h)).demandChan (headLane h) = some c

/-- The lanes of a ramp that a demand on report of channel `c` releases, judged once the report is taken (R112 to R114). -/
def State.releasedBy (s : State) (c : Chan) (n : RampNo) : List LaneNo :=
  match (s.ramp n).plan with
  | none => []
  | some p => if (s.ramp n).callsOn c = true ∧ (s.ramp n).cycling = true then s.lanesToRelease n p else []

/-- The record of a channel of a sampling kind at its close, before its health moves: the silent run kept, and SILENT added when
the run has reached the kind's parameter (R54). -/
def Channel.finalChecks (r : Channel) (k : KindSettings) : Channel :=
  { r with
    silentRun := if r.counted = 0 then min (r.silentRun + 1) 255 else 0
    faults := { r.faults with
      silent := r.faults.silent || decide (0 < k.silent ∧ k.silent ≤ if r.counted = 0 then min (r.silentRun + 1) 255 else 0) } }

/-- What a window close leaves in a channel record `u`, from the record `r` with the readings of the closing window complete, under
the settings of the closing window and of the next (R42, R45, R50, R52, R54, R56). -/
structure Channel.ClosedAs (r u : Channel) (set next : Settings) : Prop where
  kept : u.refs = r.refs ∧ u.pin = r.pin ∧ u.presence = r.presence
  kind : u.sampling = r.kind
  unused : r.sampling = none → r.kind = none → u.health = .disabled ∧ u.healthCount = 0
  cleared : r.sampling ≠ none ∨ r.kind ≠ none → u.onTime = 0 ∧ u.shortPulses = 0
  released : r.sampling ≠ none → r.kind = none →
    u.health = .disabled ∧ u.healthCount = 0 ∧ u.silentRun = 0 ∧ u.stuck = false ∧ u.qualified = false ∧ u.counted = 0 ∧
      u.faults = .empty
  settling : ∀ k, r.kind = some k → r.sampling ≠ some k →
    u.health = .settling ∧ u.healthCount = 0 ∧ u.silentRun = 0 ∧ u.stuck = false ∧ u.qualified = false ∧ u.counted = 0 ∧
      u.faults = .empty ∧ u.contOn = 0 ∧ u.inProgress = r.presence
  running : ∀ k, r.kind = some k → r.sampling = some k →
    u.health = ((r.finalChecks (set.of k)).moveHealth set).health ∧
      u.healthCount = ((r.finalChecks (set.of k)).moveHealth set).healthCount ∧
      u.silentRun = (r.finalChecks (set.of k)).silentRun ∧ u.contOn = r.contOn ∧ u.inProgress = r.inProgress ∧
      u.stuck = (r.stuck || r.presence && decide ((next.of k).maxOn * 100 ≤ r.contOn)) ∧
      u.faults = ⟨r.presence && u.stuck, false, false⟩ ∧
      (r.qualified = false ∧ r.presence = true ∧ r.inProgress = false ∧ (next.of k).debounce ≤ r.contOn →
        u.qualified = true ∧ u.counted = 1) ∧
      (¬ (r.qualified = false ∧ r.presence = true ∧ r.inProgress = false ∧ (next.of k).debounce ≤ r.contOn) →
        u.qualified = r.qualified ∧ u.counted = 0)

/-- The summary entry of a channel whose completed record at the close of a window of W cs is `r` (R47, R51): the table's rows in their
order, on the faults seen with SILENT added and on the health that the close leaves. -/
structure Channel.EnteredAs (r : Channel) (set : Settings) (w : Nat) (e : SummaryEntry) : Prop where
  unsampled : r.sampling = none → e = ⟨0, 0, .disabled, .empty⟩
  measured : r.sampling ≠ none → e.occupancy = min 1000 (r.onTime * 1000 / w) ∧ e.count = r.counted
  released : ∀ j, r.sampling = some j → r.kind = none →
    e.validity = .disabled ∧ e.faults = (r.finalChecks (set.of j)).faults
  changed : ∀ j k, r.sampling = some j → r.kind = some k → k ≠ j →
    e.validity = .settling ∧ e.faults = (r.finalChecks (set.of j)).faults
  settling : ∀ k, r.sampling = some k → r.kind = some k → ((r.finalChecks (set.of k)).moveHealth set).health = .settling →
    e.validity = .settling ∧ e.faults = (r.finalChecks (set.of k)).faults
  clean : ∀ k, r.sampling = some k → r.kind = some k → ((r.finalChecks (set.of k)).moveHealth set).health = .good →
    (r.finalChecks (set.of k)).faults = .empty → e.validity = .valid ∧ e.faults = .empty
  other : ∀ k, r.sampling = some k → r.kind = some k → ((r.finalChecks (set.of k)).moveHealth set).health ≠ .settling →
    ¬ (((r.finalChecks (set.of k)).moveHealth set).health = .good ∧ (r.finalChecks (set.of k)).faults = .empty) →
    e.validity = .faulty ∧ e.faults = (r.finalChecks (set.of k)).faults

/-- The DETECTOR notices that a window close raises for channel `x` from its completed record `r` (R57). -/
structure DetectorNoticed (t : State) (x : Chan) (r : Channel) (set : Settings) : Prop where
  failed : ∀ k, r.kind = some k → r.sampling = some k → r.health ≠ .failed →
    ((r.finalChecks (set.of k)).moveHealth set).health = .failed →
    Raised t .detector x.val (.detectorFailed (r.finalChecks (set.of k)).faults) true
  returned : ∀ k, r.kind = some k → r.sampling = some k → r.health = .failed →
    ((r.finalChecks (set.of k)).moveHealth set).health = .good → Raised t .detector x.val (.detector .returned) false
  released : r.sampling ≠ none → r.kind = none → r.health = .failed →
    Raised t .detector x.val (.detector .released) false
  changed : ∀ k, r.sampling ≠ none → r.kind = some k → r.sampling ≠ some k → r.health = .failed →
    Raised t .detector x.val (.detector .kindChanged) false

/-- A window close makes a health report for channel `x` when its health changes, its kind reaches its sampling, or its references
changed while the kind was kept; the RPC then holds the health with the queue hold that follows, and the RSQ the demand health of
the lanes it serves (R42, R46, R98, R100, R108). -/
structure HealthReported (s t : State) (x : Chan) : Prop where
  held : ∀ n, (∃ h, (x, h) ∈ (s.ramp n).held) → (t.ramp n).heldHealth x = (t.chan x).health ∧
    ((s.ramp n).entryChan = some x → (t.ramp n).hold = decide ((t.chan x).health ≠ .good))
  demand : ∀ h, s.demandOf x h → (t.head h).demandHealth = some (t.chan x).health

/-! ### Zone amendments -/

/-- The weight that a list holds for a ramp. -/
def weightOf (n : RampNo) (l : List (RampNo × Nat)) : Option Nat := (l.find? fun m => decide (m.1 = n)).map (·.2)

/-- The weight that a command's list of changes gives a ramp: the last that names it (log 38). -/
def lastWeight (n : RampNo) (l : List (RampNo × Nat)) : Option Nat := weightOf n l.reverse

/-- The amendment `new` is `old` with an accepted ZONE AMEND merged (R84): the parameters given replace the pending ones, the
weight changes replace the pending weights and those of pending additions, the additions follow at the tail. -/
structure Merged (old new : ZoneAmendment) (a : ZoneAmendArgs) (weights additions : List (RampNo × Nat)) : Prop where
  oc : new.oc = if a.oc = 0xFFFF then old.oc else some a.oc.toNat
  gz : new.gz = if a.gz = 0 then old.gz else some a.gz.toNat
  rmax : new.rmax = if a.rmax = 0xFFFF then old.rmax else some a.rmax.toNat
  additions : new.additions = (old.additions.map fun m => (m.1, (lastWeight m.1 weights).getD m.2)) ++ additions
  weights : ∀ n, weightOf n new.weights =
    if n ∈ old.additions.map (·.1) then weightOf n old.weights else (lastWeight n weights).or (weightOf n old.weights)
  once : noRepeat (old.weights.map (·.1)) = true → noRepeat (new.weights.map (·.1)) = true

/-- `new` is the record `old` with its pending amendment applied (R84, R87): the parameters it gives, the members' weights it changes,
its additions at the tail. -/
structure AmendmentApplied (old new : Zone) : Prop where
  absent : old.amendment = none → new = old
  applied : ∀ a, old.amendment = some a → new = { old with
    oc := a.oc.getD old.oc
    gz := a.gz.getD old.gz
    rmax := a.rmax.getD old.rmax
    members := (old.members.map fun m => (m.1, (lastWeight m.1 a.weights).getD m.2)) ++ a.additions
    amendment := none }

/-- The evaluation that a window close makes of a zone: of its record with the pending amendment applied, on the summary and on the
ramps as they stand (R87 to R91). -/
def State.evaluation (s : State) (sum : Summary) (ramps : RampNo → Ramp) (z : ZoneNo) : Evaluated :=
  (s.zone z).applyAmendment.evaluate sum ramps

/-- What a window close does in the ZNU, from summary to bulletin (R87, R92, R93): every zone that is not VACANT becomes its evaluation
and has its entry, in ascending order; an added ramp joins the zone; a change of state or unable raises the zone's notice. -/
structure ZonesEvaluated (s t : State) (sum : Summary) (ramps : RampNo → Ramp) (b : Bulletin) : Prop where
  vacant : ∀ z, (s.zone z).state = .vacant → t.zone z = s.zone z
  evaluated : ∀ z, (s.zone z).state ≠ .vacant →
    AmendmentApplied (s.zone z) (s.zone z).applyAmendment ∧ t.zone z = (s.evaluation sum ramps z).zone
  entries : b.entries = ((List.finRange 6).filter fun z => decide ((s.zone z).state ≠ .vacant)).map fun z =>
    ⟨z, (t.zone z).state, (t.zone z).r, (s.evaluation sum ramps z).shares⟩
  joined : ∀ n z, z ∈ (t.ramp n).joined ↔
    z ∈ (s.ramp n).joined ∨ (s.zone z).state ≠ .vacant ∧ n ∈ (s.zone z).additions.map (·.1)
  ascending : ∀ n, (s.ramp n).joined.Pairwise (· < ·) → (t.ramp n).joined.Pairwise (· < ·)
  noticed : ∀ z, (s.zone z).state ≠ .vacant →
    ((t.zone z).state ≠ (s.zone z).state ∨ (t.zone z).unable ≠ (s.zone z).unable) →
    Raised t .zone z.val (.zoneEvaluated (t.zone z).state (t.zone z).r (t.zone z).unable sum.number)
      (decide ((t.zone z).state = .degraded ∨ (t.zone z).unable = true))
  quiet : ∀ z, (t.zone z).state = (s.zone z).state → (t.zone z).unable = (s.zone z).unable →
    ∀ l r, r.kind = .zone → r.subject = z.val → (r ∈ (t.link l).set ↔ r ∈ (s.link l).set)

/-! ### Entering CLOSING -/

/-- A METERING or FLUSHING ramp was taken into CLOSING (R27, R30, R35): SETTLE while a lane is not settled; past SETTLE in
the same event when every lane is. -/
structure ClosingEntered (s t : State) (n : RampNo) (p : Plan) (retire : Bool) (cause : RampCause) : Prop where
  settling : (∃ k ∈ p.laneList, (s.head (headOf n k)).settled p.timing.minRed = false) →
    (t.ramp n).state = .closing ∧ (t.ramp n).sub = some .settle ∧ (t.ramp n).retirePending = retire ∧
      (t.ramp n).plan = (s.ramp n).installAmendment.plan ∧ RatesKept (s.ramp n) (t.ramp n) ∧
      (∀ k, t.head (headOf n k) = s.head (headOf n k)) ∧
      Raised t .rampState n.val (.rampState .closing cause) false ∧ OnlyRamp n s t
  green : (∀ k ∈ p.laneList, (s.head (headOf n k)).settled p.timing.minRed = true) → 0 < p.timing.closeGreen →
    (t.ramp n).state = .closing ∧ (t.ramp n).sub = some .green ∧ (t.ramp n).retirePending = retire ∧
      (t.ramp n).closeTimer = 0 ∧ RatesKept (s.ramp n) (t.ramp n) ∧
      (∀ k ∈ p.laneList, (t.head (headOf n k)).cycle = .restGreen ∧ (t.head (headOf n k)).sinceStart = 0) ∧
      Raised t .rampState n.val (.rampState .closing cause) false ∧ OnlyRamp n s t
  atOnce : (∀ k ∈ p.laneList, (s.head (headOf n k)).settled p.timing.minRed = true) → p.timing.closeGreen = 0 →
    ClosingOver s t n retire
  flush : (s.ramp n).state = .flushing → NotLive t .flush n.val

/-! ### The bytes of results (R142, R148) -/

/-- A number of one byte. -/
def byteOf (v : Nat) : Byte := BitVec.ofNat 8 v

/-- A number of two bytes, high byte first. -/
def twoBytes (v : Nat) : List Byte := [byteOf (v / 256), byteOf v]

/-- A list: a count byte, then the bytes of its entries. -/
def countedBytes (l : List (List Byte)) : List Byte := byteOf l.length :: l.flatten

/-- An optional part: 0, or 1 and its bytes. -/
def partBytes (o : Option (List Byte)) : List Byte := (o.map fun b => (1 : Byte) :: b).getD [0]

/-- One of two values that the manual lists: 0 for the first, 1 for the second. -/
def firstOf (b : Bool) : Byte := if b then 0 else 1

/-- A channel field of an image; 0xFF when it is absent. -/
def chanField (c : Option Chan) : Byte := (c.map fun c => byteOf c.val).getD 0xFF

/-- The 64 bytes of a plan's image, as the plan image table lays them out (R148): an absent channel is 0xFF, as every channel of a lane
above L is in a settled plan, and a byte with no field is 0. -/
def imageOf (p : Plan) : List Byte :=
  [byteOf p.layout.bound.val, byteOf p.layout.lanes, byteOf p.layout.v,
    byteOf ((if p.layout.order = .staggered then 1 else 0) + (if p.layout.autoRestore then 2 else 0) +
      (if p.layout.autoOpen then 4 else 0))] ++
    [0, 1, 2, 3].map (fun i => chanField (p.layout.mainFields.get i)) ++
    [chanField p.layout.entry, chanField p.layout.queueEnd, chanField (p.layout.demand.get 0),
      chanField (p.layout.passage.get 0), chanField (p.layout.demand.get 1), chanField (p.layout.passage.get 1),
      chanField (p.layout.demand.get 2), chanField (p.layout.passage.get 2)] ++
    [byteOf p.timing.green, byteOf p.timing.minRed] ++ twoBytes p.timing.warn ++ twoBytes p.timing.startRed ++
    twoBytes p.timing.closeGreen ++ List.replicate 8 0 ++
    twoBytes p.control.target ++ [byteOf p.control.gain] ++ twoBytes p.control.minRate ++
    twoBytes p.control.maxRate ++ twoBytes p.control.startRate ++ twoBytes p.control.fallback ++ List.replicate 5 0 ++
    [byteOf p.queue.storage, byteOf p.queue.target, byteOf p.queue.dwell, byteOf p.queue.flushHold] ++
    twoBytes p.queue.emptyTime ++ List.replicate 10 0

/-- The bytes of a lane-head context (R108): a last fault is an optional part (log 52). -/
def Head.form (h : Head) : List Byte :=
  [byteOf h.cycle.pos, byteOf h.aspect.pos] ++ twoBytes h.sinceStart ++ twoBytes h.sinceEnd ++
    [firstOf h.demandOn, byteOf (demandHealthPos h.demandHealth)] ++ twoBytes h.demandOff ++
    [Config.markByte h.redProved, Config.markByte h.greenProved, byteOf h.mismatch] ++
    partBytes (h.lastFault.map fun f => [byteOf f.pos, Config.markByte h.standing])

/-- The bytes of a set of corridor settings (R58): five values for each per-kind setting, in the order of the kinds (log 50). -/
def Settings.form (c : Settings) : List Byte :=
  [byteOf c.source.pos, byteOf c.length] ++
    [0, 1, 2, 3, 4].map (fun i => byteOf (c.kinds.get i).debounce) ++
    ([0, 1, 2, 3, 4].map fun i => twoBytes (c.kinds.get i).maxOn).flatten ++
    [0, 1, 2, 3, 4].map (fun i => byteOf (c.kinds.get i).silent) ++
    [0, 1, 2, 3, 4].map (fun i => byteOf (c.kinds.get i).chatter) ++
    [byteOf c.persistence, byteOf c.recovery, byteOf c.tolerance]

/-- The bytes of a list of (ramp, weight) entries. -/
def membersForm (l : List (RampNo × Nat)) : List Byte := countedBytes (l.map fun m => [byteOf m.1.val, byteOf m.2])

/-- The bytes of each group of LOOKUP, field by field in the order of its rule: R2 and R108 (groups 1 and 2), R59 (3, 4 and 8), R94
(5 and 6), R157 (7), R142 (9) and R162 (10). -/
structure LookupForms (s : State) : Prop where
  status : ∀ n, s.rampStatus n =
    [byteOf (s.ramp n).state.pos, ((s.ramp n).sub.map fun p => byteOf p.pos).getD 0xFF, firstOf (s.ramp n).retirePending,
      byteOf (authorityPos (s.ramp n).authority)] ++
    partBytes ((s.ramp n).override.map fun o => twoBytes o.rate ++ twoBytes (o.remaining.getD 0) ++
      [if o.setBy = .loc then 0 else 1]) ++
    twoBytes (s.ramp n).applied ++ twoBytes (s.ramp n).computed ++ limitingBytes (s.ramp n).limiting ++
    countedBytes ((s.ramp n).intervals.map twoBytes) ++ ((s.ramp n).effMax.map twoBytes).getD [0xFF, 0xFF] ++
    [byteOf (s.ramp n).q, firstOf (s.ramp n).hold] ++ countedBytes ((s.ramp n).joined.map fun z => [byteOf z.val]) ++
    ((s.ramp n).lastUpdate.map twoBytes).getD [0xFF, 0xFF] ++
    [((s.ramp n).stopped.map fun c => byteOf c.pos).getD 0xFF] ++
    countedBytes ((s.ramp n).trimmed.map fun f => [byteOf f.offset]) ++
    [Config.markByte (s.ramp n).amendment.isSome] ++ twoBytes (s.ramp n).contOn ++ twoBytes (s.ramp n).contOff ++
    [Config.markByte (s.beacon n)] ++ (s.head (headOf n 0)).form ++ (s.head (headOf n 1)).form ++
    (s.head (headOf n 2)).form
  plan : ∀ n, (s.ramp n).planBytes = partBytes ((s.ramp n).plan.map imageOf) ++
    partBytes ((s.ramp n).amendment.map fun a => twoBytes a.control.target ++ [byteOf a.control.gain] ++
      twoBytes a.control.minRate ++ twoBytes a.control.maxRate ++ twoBytes a.control.startRate ++
      twoBytes a.control.fallback ++ [byteOf a.queueTarget])
  channel : ∀ c, s.channelBytes c =
    [byteOf (kindPos (s.chan c).kind)] ++
    countedBytes ((s.chan c).refs.map fun x => [x.1.byte, byteOf (kindPos (some x.2))]) ++
    [byteOf (kindPos (s.chan c).sampling), byteOf (s.chan c).health.pos, byteOf (s.chan c).healthCount,
      firstOf (s.chan c).presence, byteOf ((s.chan c).contOn / 65536)] ++ twoBytes (s.chan c).contOn ++
    [Config.markByte (s.chan c).qualified, Config.markByte (s.chan c).stuck] ++ twoBytes (s.chan c).onTime ++
    twoBytes (s.chan c).counted ++ twoBytes (s.chan c).shortPulses ++
    countedBytes ((s.chan c).faults.positions.map fun i => [byteOf i]) ++ [byteOf (s.chan c).silentRun] ++
    twoBytes s.winNum ++ twoBytes s.elapsed
  noSummary : ∀ c, (s.chan c).last = none ∨ s.lastClosed = none → s.channelSummary c = [0]
  summary : ∀ c e w, (s.chan c).last = some e → s.lastClosed = some w → s.channelSummary c =
    [1] ++ twoBytes e.occupancy ++ twoBytes e.count ++ [byteOf e.validity.pos] ++
    countedBytes (e.faults.positions.map fun i => [byteOf i]) ++ twoBytes w.1 ++ twoBytes w.2
  zone : ∀ z, (s.zone z).bytes =
    [byteOf (s.zone z).state.pos, byteOf (authorityPos (s.zone z).owner)] ++
    countedBytes ((s.zone z).detectors.map fun c => [byteOf c.val]) ++ twoBytes (s.zone z).oc ++
    [byteOf (s.zone z).gz] ++ twoBytes (s.zone z).rmax ++ membersForm (s.zone z).members ++ twoBytes (s.zone z).r ++
    [firstOf (s.zone z).unable] ++ ((s.zone z).oz.map twoBytes).getD [0xFF, 0xFF] ++
    ((s.zone z).lastEval.map twoBytes).getD [0xFF, 0xFF] ++
    partBytes ((s.zone z).amendment.map fun a => (a.oc.map twoBytes).getD [0xFF, 0xFF] ++
      [(a.gz.map byteOf).getD 0xFF] ++ (a.rmax.map twoBytes).getD [0xFF, 0xFF] ++ membersForm a.weights ++
      membersForm a.additions)
  bulletin : ∀ z, s.bulletinBytes z = partBytes (s.bulletin.map fun b => twoBytes b.number ++
    partBytes ((b.entries.find? fun e => decide (e.zone = z)).map fun e => [byteOf e.state.pos] ++ twoBytes e.r ++
      countedBytes (e.shares.map fun m => byteOf m.1.val :: twoBytes m.2)))
  directory : s.directoryBytes =
    countedBytes ((List.finRange 24).map fun k =>
      [byteOf (s.slot k).state.pos, Config.markByte (s.slot k).guarded] ++
        partBytes (if (s.slot k).state = .valid then some [(s.slot k).image.get 0,
            firstOf (decide (byteAt (s.slot k).image 3 / 2 % 2 = 1)), firstOf (decide (byteAt (s.slot k).image 3 / 4 % 2 = 1))]
          else none)) ++
    [0, 1, 2, 3].map (fun j => Config.markByte (s.stage.get j).isSome) ++
    partBytes (s.store.map fun b => [byteOf b.op.pos, byteOf b.slot.val])
  settings : s.settingsBytes = s.settings.form ++ partBytes (s.pendSettings.map Settings.form)
  report : s.reportListing = countedBytes ((List.finRange 24).map fun k =>
    [((s.report.get k).map fun e => byteOf e.outcome.index.val).getD 0xFF, ((s.report.get k).bind (·.bound)).getD 0xFF])

/-- The positions by which the parts of a result are sent, each list in the order in which the manual gives its values (R142); NOT GOOD
follows the five healths (log 11), and the limiting term ends with the zone number, or all ones. -/
structure ListPositions : Prop where
  state : [RampState.vacant, .parked, .opening, .metering, .flushing, .closing, .lockout].map (·.pos) = List.range 7
  sub : [SubPhase.warn, .startRed, .settle, .green].map (·.pos) = List.range 4
  stopped : [StopCause.command, .permit, .closed, .restored].map (·.pos) = List.range 4
  authority : [none, some Link.loc, some .centre].map authorityPos = List.range 3
  limiting : [some Limiting.localTerm, some .fallback, some .override, some .queue, some .minimum, some .maximum,
    some .flush, some .start, none].map limitingBytes = [[0, 0xFF], [1, 0xFF], [2, 0xFF], [4, 0xFF], [5, 0xFF], [6, 0xFF],
      [7, 0xFF], [8, 0xFF], [0xFF, 0xFF]]
  limitingZone : ∀ z, limitingBytes (some (.zone z)) = [3, byteOf z.val]
  cycle : [CycleState.dark, .hold, .ready, .green, .restGreen].map (·.pos) = List.range 5
  aspect : [Aspect.dark, .red, .green].map (·.pos) = List.range 3
  fault : [FaultClass.greenConflict, .redOut, .greenOut, .strayRed].map (·.pos) = List.range 4
  kind : [none, some Kind.mainline, some .entry, some .demand, some .passage, some .queueEnd].map kindPos = List.range 6
  health : [some Health.disabled, some .settling, some .good, some .suspect, some .failed, none].map demandHealthPos =
    List.range 6
  validity : [Validity.disabled, .settling, .valid, .faulty].map (·.pos) = List.range 4
  zone : [ZoneState.vacant, .idle, .restricting, .degraded].map (·.pos) = List.range 4
  slot : [SlotState.empty, .valid, .damaged].map (·.pos) = List.range 3
  op : [StoreOp.store, .erase].map (·.pos) = List.range 2
  source : [WindowSource.internal, .line].map (·.pos) = List.range 2
  link : [LinkState.idle, .receiving, .executing, .replying].map (·.pos) = List.range 4
  frame : RxFrame.absent.pos = 0 ∧ (∀ l, (RxFrame.assembling l).pos = 1) ∧ RxFrame.void.pos = 2
  outcome : [ScanOutcome.empty, .damaged, .notAuto, .skippedDuplicate, .skippedConflict, .restored, .opened].map
    (fun o => o.index.val) = List.range 7
  faults : ∀ a b c : Bool, (⟨a, b, c⟩ : FaultSet).positions =
    (if a then [0] else []) ++ (if b then [1] else []) ++ if c then [2] else []
  referencer : (∀ n, (Referencer.ramp n).byte = byteOf n.val) ∧ ∀ z, (Referencer.zone z).byte = byteOf (16 + z.val)
  offset : [PlanField.v, .green, .minRed, .warn, .startRed, .closeGreen, .targetOcc, .gain, .minRate, .maxRate, .startRate,
    .fallback, .storage, .queueTarget, .dwell, .flushHold, .emptyTime].map (·.offset) =
      [2, 16, 17, 18, 20, 22, 32, 34, 35, 37, 39, 41, 48, 49, 50, 51, 52]

end Sys2Proof.Machine
end

