-- ==== Sys2Proof/Certificates/Slice0/Obligations.lean ====
section
/-! DEFINITION. The statements for the provers. -/

open Sys2Proof Sys2Proof.Machine

/-! ### The queue, time, and what every step keeps -/

/-- A step takes the command at the front of the queue and runs exec on it with the queue's rest. -/
def Obligations.StepTakesFront : Prop :=
  ∀ (c : Instr) (rest : List Instr) (s : State), s.pending = c :: rest → step s = exec c { s with pending := rest }

/-- With no command waiting (the model's choice): nothing happens while RESET is low; a due event is taken, one of them when
several are due; otherwise a centisecond passes. A timed row is due exactly when its condition holds: R25, R26, R45, R48,
R49, R52, R102 to R105, R111 to R117, R119, R128, R130, R135. Rests on the model's logs 1, 2, 4, 16, 17, 18, 21, 30. -/
def Obligations.IdleStep : Prop :=
  (∀ (s : State) (i : Instr), i ∈ s.due ↔ s.timedRow i) ∧
  ∀ s : State, s.pending = [] →
    (s.resetHeld = true → step s = .next s) ∧
    (s.resetHeld = false → s.due = [] → step s = .next s.tick) ∧
    (∀ i, s.resetHeld = false → s.due = [i] → step s = exec i s) ∧
    (∀ i j rest, s.resetHeld = false → s.due = i :: j :: rest →
      ∃ d ∈ s.due, step s = exec d { s with tieCount := s.tieCount + 1 })

/-- R1: the count, its decisecond and second ticks, and what the resets do to it; and all that a centisecond advances, with
the effective queue-end presence that the queue-end timers follow (R25, R26, R44, R47, R48, R101, R104, R111, R117, R119,
R120, R130, R135). Rests on the model's logs 1, 4, 5, 21, 30, 33, 40. -/
def Obligations.CentisecondCount : Prop :=
  (∀ s : State, Ticked s s.tick) ∧
  (∀ r : Ramp, r.effPresence = true ↔
    r.qeOn = true ∧ ∃ c, r.queueEndChan = some c ∧ r.heldHealth c ∈ [Health.settling, .good, .suspect]) ∧
  (∀ s : State, s.resetHeld = true → ∃ t, exec .resetRelease s = .next t ∧ t.count = 0) ∧
  (∀ s : State, s.resetHeld = true → s.pending = [] → step s = .next s) ∧
  (∀ (s t : State), s.resetHeld = true → step s = .next t → t.resetHeld = true → t.count = s.count) ∧
  (∀ s : State, s.resetHeld = false → s.loc.linkState = .replying → s.restartPending = true →
    ∃ t, exec (.responseSent .loc) s = .next t ∧ t.count = s.count)

/-- No command or event touches the queue of those that wait. -/
def Obligations.QueueUntouched : Prop :=
  ∀ (c : Instr) (s t : State), exec c s = .next t → t.pending = s.pending

/-- Every step answers a next state: the part answers what it refuses with a status and never stops. -/
def Obligations.NeverStops : Prop := ∀ s : State, ∃ t, step s = .next t

/-! ### Frames -/

/-- The payload that the catalogue gives a command decodes to that command, every operand at every value. -/
def Obligations.PayloadRoundTrip : Prop :=
  ∀ (i : Instr) (payload : List Byte), WellFormed i = true → encodePayload i = some payload →
    2 ≤ payload.length ∧ payload.length ≤ 250 ∧ decodePayload i.linkOf payload = .command i

/-- A command's frame sent byte by byte on an idle link runs that command (R135 to R137). Rests on the model's log 6. -/
def Obligations.FrameRunsCommand : Prop :=
  ∀ (i : Instr) (payload : List Byte) (s : State), WellFormed i = true → encodePayload i = some payload →
    s.resetHeld = false → (s.link i.linkOf).linkState = .idle → (s.link i.linkOf).rx = .absent →
    (frameOf payload).foldl
      (fun o b => match o with
        | .next t => exec (.byteReceived i.linkOf b) t
        | .fault f => .fault f
        | .refused r => .refused r) (Host.Outcome.next s) = exec i s

/-! ### Invariants -/

/-- Every step keeps what holds the law of R109 together, and the law holds after it: a head shows GREEN only while its ramp
is METERING, FLUSHING or CLOSING and PERMIT is asserted. -/
def Obligations.GreenLawKept : Prop :=
  ∀ s t : State, s.Guarded → step s = .next t → t.Guarded ∧ t.greenLaw

/-- Every step keeps both pending sets in the order of NOTICE QUERY with one record for a kind and subject. A raise enters
both sets: it adds an unlatched record where none is present, and updates the record present in place, latched (R149); a
live clear takes the live flag off the record and adds none (R150). -/
def Obligations.SetsOrderedKept : Prop :=
  (∀ s t : State, s.setsOrdered → step s = .next t → t.setsOrdered) ∧
  (∀ (s : State) (k : NoticeKind) (subject : Nat) (d : Detail) (live : Bool) (l : Link),
    ((s.raise k subject d live).link l).set = raiseInto k subject d live (s.link l).set ∧
      ((s.liveClear k subject).link l).set = liveClearIn k subject (s.link l).set) ∧
  ∀ (k : NoticeKind) (subject : Nat) (d : Detail) (live : Bool) (set : List Notice), noticesOrdered set →
    ((∀ r ∈ set, ¬ (r.kind = k ∧ r.subject = subject)) → ∀ r,
      (r ∈ raiseInto k subject d live set ↔ r = ⟨k, subject, false, live, d⟩ ∨ r ∈ set)) ∧
    (∀ old ∈ set, old.kind = k → old.subject = subject → ∀ r,
      (r ∈ raiseInto k subject d live set ↔
        r = ⟨k, subject, true, live, d⟩ ∨ r ∈ set ∧ ¬ (r.kind = k ∧ r.subject = subject))) ∧
    ∀ r, r ∈ liveClearIn k subject set ↔
      (r ∈ set ∧ ¬ (r.kind = k ∧ r.subject = subject)) ∨
        ∃ old ∈ set, old.kind = k ∧ old.subject = subject ∧ r = { old with live := false }

/-- Every step keeps the shape of the ramp records, and no zone names a VACANT ramp. -/
def Obligations.ShapedKept : Prop := ∀ s t : State, s.Shaped → step s = .next t → t.Shaped

/-- The state after reset has the three invariants. Rests on the model's logs 3, 23. -/
def Obligations.InvariantsAtReset : Prop := State.reset.Guarded ∧ State.reset.setsOrdered ∧ State.reset.Shaped

/-! ### Resets -/

/-- HARD RESET: every record at its reset value, the lines, inputs, slots and report kept (R22, R60, R95, R121, R134, R147,
R155, R156, R162). That Oc, Gz and Rmax of a VACANT zone are 0, and the values of the marks that are the model's own, are
the model's choice. Rests on the model's logs 13, 17, 19, 22, 30. -/
def Obligations.HardResetTaken : Prop :=
  ∀ s : State, s.resetHeld = false → ∃ t, exec .hardReset s = .next t ∧ t.resetHeld = true ∧
    (∀ n, t.ramp n = Ramp.vacantRecord) ∧ (∀ z, t.zone z = Zone.vacantRecord) ∧
    (∀ c, t.chan c = { Channel.resetRecord with pin := (s.chan c).pin }) ∧
    (∀ h, t.head h = { s.head h with
      cycle := .dark, sinceStart := 6000, sinceEnd := 6000, demandOn := false, demandHealth := none, demandOff := 0
      demandTimed := false, mismatch := 0, lastFault := none, standing := false, due := none }) ∧
    (∀ l, (t.link l).linkState = .idle ∧ (t.link l).rx = .absent ∧ (t.link l).overrun = false ∧
      (t.link l).response = none ∧ (t.link l).supervised = false ∧ (t.link l).supTimer = 0 ∧ (t.link l).set = [] ∧
      ∀ k, (t.link l).unmasked.get k = false) ∧
    t.loc.supTime = 0 ∧ t.centre.supTime = 90 ∧ t.settings = Settings.default ∧ t.pendSettings = none ∧
    t.bulletin = none ∧ t.transit = [] ∧ (∀ j, t.stage.get j = none) ∧ t.store = none ∧ t.scan = .idle ∧
    t.restartPending = false ∧ t.winNum = 0 ∧ t.elapsed = 0 ∧ t.lastClosed = none ∧
    t.slots = s.slots ∧ t.permit = s.permit ∧ t.takeover = s.takeover ∧ t.report = s.report ∧ t.count = s.count ∧
    t.tieCount = s.tieCount ∧ t.pending = s.pending ∧
    (∀ h, t.redDrive h = false ∧ t.greenDrive h = false) ∧ (∀ n, t.beacon n = false) ∧ t.noticeLine = false

/-- RESET RELEASE: count 0, window 0 at its start (the invariant that every step keeps says that no window is timed while
RESET is low), the inputs read, the report emptied and the scan at slot 0, the PERMIT notice when PERMIT is absent (R1, R40,
R60, R161). Rests on the model's log 22. -/
def Obligations.ResetReleased : Prop :=
  ∀ s : State, s.Guarded → s.resetHeld = true →
    ∃ t, exec .resetRelease s = .next t ∧ t.resetHeld = false ∧ t.count = 0 ∧ t.winNum = 0 ∧ t.elapsed = 0 ∧
    (∀ c, t.chan c = { s.chan c with presence := (s.chan c).pin }) ∧
    (∀ h, t.head h = { s.head h with redProved := (s.head h).redPin, greenProved := (s.head h).greenPin }) ∧
    t.scan = .at 0 ∧ (∀ k, t.report.get k = none) ∧ t.ramps = s.ramps ∧ t.zones = s.zones ∧ t.slots = s.slots ∧
    t.stage = s.stage ∧ t.store = s.store ∧ t.settings = s.settings ∧ t.permit = s.permit ∧
    t.takeover = s.takeover ∧ t.pending = s.pending ∧ SetsOnly s t ∧
    (s.permit = true → ∀ l, (t.link l).set = (s.link l).set) ∧
    (s.permit = false → ∀ l, (t.link l).set = raiseInto .permit 0 .none true (s.link l).set)

/-- RESPONSE SENT: the link becomes IDLE, or RECEIVING while a receive frame is there; on the local link with a RESTART
answered, the RESTART is taken (R137, R146), with what it resets and what it keeps (R22, R60, R134, R155, R156, R162). That
Oc, Gz and Rmax of a VACANT zone are 0, and the values of the marks that are the model's own, are the model's choice. Rests
on the model's logs 7, 17, 19, 27, 30. -/
def Obligations.ResponseSentTaken : Prop :=
  ∀ (s : State) (l : Link), s.resetHeld = false → (s.link l).linkState = .replying →
    (¬ (l = .loc ∧ s.restartPending = true) → ∃ t, exec (.responseSent l) s = .next t ∧
      t.link l = { s.link l with
        linkState := if (s.link l).rx = .absent then .idle else .receiving
        response := none } ∧
      (∀ k, k ≠ l → t.link k = s.link k) ∧ OnlyLinks s t) ∧
    (l = .loc → s.restartPending = true → ∃ t, exec (.responseSent l) s = .next t ∧
      (∀ n, t.ramp n = Ramp.vacantRecord) ∧ (∀ z, t.zone z = Zone.vacantRecord) ∧
      (∀ c, t.chan c = { Channel.resetRecord with pin := (s.chan c).pin, presence := (s.chan c).pin }) ∧
      (∀ h, t.head h = { Head.resetContext with
        redPin := (s.head h).redPin, greenPin := (s.head h).greenPin
        redProved := (s.head h).redPin, greenProved := (s.head h).greenPin }) ∧
      (∀ k, t.link k = { s.link k with
        linkState := .idle, rx := .absent, gap := 0, overrun := false, response := none
        set := if s.permit then [] else [⟨.permit, 0, false, true, .none⟩] }) ∧
      t.settings = s.pendSettings.getD s.settings ∧ t.pendSettings = none ∧ t.winNum = 0 ∧ t.elapsed = 0 ∧
      t.lastClosed = none ∧ t.bulletin = none ∧ t.transit = [] ∧ t.restartPending = false ∧ t.stage = s.stage ∧
      t.slots = s.slots ∧ t.store = s.store ∧ t.count = s.count ∧ t.permit = s.permit ∧ t.takeover = s.takeover ∧
      t.pending = s.pending ∧ t.resetHeld = false ∧
      (s.store = none → t.scan = .at 0 ∧ ∀ k, t.report.get k = none) ∧
      (s.store ≠ none → t.scan = .afterStore))

/-! ### Ramp commands -/

/-- COMMISSION of a VACANT ramp from either source installs the settled plan (R12, R13, R14, R141), with what the structural
checks ask of an image (R5), what a plan read from one settles to with its claims and marks (R6 to R11, R148), what of the
claims R7 refuses, and the lane intervals of its start rate (R76). That the installed plan keeps the four mainline fields in
their places, gaps and all, and that one channel named for two lanes is refused as two roles, are the model's choice. Rests
on the model's logs 20, 48, 53. -/
def Obligations.CommissionInstalls : Prop :=
  (∀ (n : RampNo) (img : Table Byte 64), structureOk n img = true ↔ Structured n img) ∧
  (∀ (s : State) (n : RampNo) (claims : List (Chan × Kind)), s.conflicts n claims = true ↔ s.Conflicting n claims) ∧
  (∀ (n : RampNo) (img : Table Byte 64), Structured n img → SettledFrom n img (settlePlan n img)) ∧
  ∀ (s : State) (l : Link) (ramp source slot : Byte) (n : RampNo) (img : Table Byte 64),
    s.takes l → rampArg ramp = some n → (s.ramp n).state = .vacant → s.planSource source slot = (s, .ok img) →
    structureOk n img = true → s.conflicts n (settlePlan n img).plan.layout.claims = false →
    ∃ t, exec (.commission l ramp source slot) s = .next t ∧
      (t.ramp n).state = .parked ∧ (t.ramp n).sub = none ∧ (t.ramp n).retirePending = false ∧
      (t.ramp n).plan = some (settlePlan n img).plan ∧ (t.ramp n).effMax = some (settlePlan n img).effMax ∧
      (t.ramp n).trimmed = (settlePlan n img).marks ∧ (t.ramp n).amendment = none ∧
      (t.ramp n).authority = none ∧ (t.ramp n).override = none ∧
      (t.ramp n).applied = (settlePlan n img).plan.control.startRate ∧
      (t.ramp n).computed = (settlePlan n img).plan.control.startRate ∧ (t.ramp n).limiting = some .start ∧
      (t.ramp n).intervals = (settlePlan n img).plan.intervals (settlePlan n img).plan.control.startRate ∧
      (t.ramp n).intervals.length = byteAt img 1 ∧
      (∀ i ∈ (t.ramp n).intervals,
        36000 * byteAt img 1 * (settlePlan n img).plan.layout.v ≤ i * (t.ramp n).applied ∧
          (i - 1) * (t.ramp n).applied < 36000 * byteAt img 1 * (settlePlan n img).plan.layout.v) ∧
      (t.ramp n).q = 0 ∧ (t.ramp n).hold = true ∧ (t.ramp n).joined = [] ∧ (t.ramp n).lastUpdate = none ∧
      (t.ramp n).contOn = 0 ∧ (t.ramp n).contOff = 0 ∧ (t.ramp n).stopped = some .command ∧
      (∀ c, (t.chan c).refs = (s.chan c).refs ++
        ((settlePlan n img).plan.layout.claims.filter fun p => decide (p.1 = c)).map fun p => (.ramp n, p.2)) ∧
      (∀ k, (t.head (headOf n k)).aspect = .dark ∧ (t.head (headOf n k)).demandOn = false ∧
        (t.head (headOf n k)).demandHealth = none) ∧
      Raised t .rampState n.val (.rampState .parked .commission) false ∧
      Answered s t l 0x11 .done (marksBytes (settlePlan n img).marks) ∧ OnlyRampAndRefs n s t

/-- COMMISSION answers the first refusal its checks meet and changes nothing but the links; a VALID slot whose check fails
becomes DAMAGED (R12, R157). Rests on the model's logs 12, 53. -/
def Obligations.CommissionRefused : Prop :=
  ∀ (s : State) (l : Link) (ramp source slot : Byte), s.takes l →
    (rampArg ramp = none → ∃ t, exec (.commission l ramp source slot) s = .next t ∧ Refused s t l 0x11 .range) ∧
    (∀ n, rampArg ramp = some n → (s.ramp n).state ≠ .vacant →
      ∃ t, exec (.commission l ramp source slot) s = .next t ∧ Refused s t l 0x11 .state) ∧
    (∀ n, rampArg ramp = some n → (s.ramp n).state = .vacant →
      PlanRefused (.commission l ramp source slot) s l 0x11 n source slot)

/-- REPLACE PLAN of a PARKED ramp answers the first refusal that steps 4 to 6 of R12 meet, or swaps the plan, reconciles the
references and keeps the rest (R15, R16, R157): a kept claim keeps its held health and a new one is held DISABLED (R98), the
queue hold follows (R100), and a demand channel takes its demand fields to the lane that now names it (R108). Rests on the
model's logs 12, 16, 17, 20, 48, 53. -/
def Obligations.ReplacePlanSwaps : Prop :=
  ∀ (s : State) (l : Link) (ramp source slot : Byte) (n : RampNo) (old : Plan) (img : Table Byte 64),
    s.takes l → rampArg ramp = some n → (s.ramp n).state = .parked → (s.ramp n).plan = some old →
    (s.ramp n).allows l = true →
    PlanRefused (.replacePlan l ramp source slot) s l 0x12 n source slot ∧
    (s.planSource source slot = (s, .ok img) → structureOk n img = true →
    s.conflicts n (settlePlan n img).plan.layout.claims = false →
    ∃ t, exec (.replacePlan l ramp source slot) s = .next t ∧
      (t.ramp n).plan = some (settlePlan n img).plan ∧ (t.ramp n).effMax = some (settlePlan n img).effMax ∧
      (t.ramp n).trimmed = (settlePlan n img).marks ∧
      (t.ramp n).q = min (s.ramp n).q (settlePlan n img).plan.queue.storage ∧
      (t.ramp n).applied = (settlePlan n img).plan.control.startRate ∧
      (t.ramp n).computed = (settlePlan n img).plan.control.startRate ∧ (t.ramp n).limiting = some .start ∧
      (t.ramp n).intervals = (settlePlan n img).plan.intervals (settlePlan n img).plan.control.startRate ∧
      (old.layout.queueEnd = (settlePlan n img).plan.layout.queueEnd →
        (t.ramp n).contOn = (s.ramp n).contOn ∧ (t.ramp n).contOff = (s.ramp n).contOff) ∧
      (old.layout.queueEnd ≠ (settlePlan n img).plan.layout.queueEnd →
        (t.ramp n).contOn = 0 ∧ (t.ramp n).contOff = 0) ∧
      (t.ramp n).state = .parked ∧ (t.ramp n).stopped = (s.ramp n).stopped ∧
      (t.ramp n).authority = (s.ramp n).authority ∧ (t.ramp n).override = (s.ramp n).override ∧
      (t.ramp n).joined = (s.ramp n).joined ∧ (t.ramp n).lastUpdate = (s.ramp n).lastUpdate ∧
      (∀ x ∈ (settlePlan n img).plan.layout.claims, (t.ramp n).heldHealth x.1 =
        if x ∈ old.layout.claims then (s.ramp n).heldHealth x.1 else .disabled) ∧
      ((settlePlan n img).plan.layout.entry = none → (t.ramp n).hold = true) ∧
      (∀ c, (settlePlan n img).plan.layout.entry = some c → (t.ramp n).hold = decide ((t.ramp n).heldHealth c ≠ .good)) ∧
      (∀ k, (∀ c, (settlePlan n img).plan.layout.demand.get k = some c → ∀ j, old.layout.demand.get j ≠ some c) →
        (t.head (headOf n k)).demandOn = false ∧ (t.head (headOf n k)).demandHealth = none) ∧
      (∀ k j c, (settlePlan n img).plan.layout.demand.get k = some c → old.layout.demand.get j = some c →
        (∀ i < j, old.layout.demand.get i ≠ some c) →
        (t.head (headOf n k)).demandOn = (s.head (headOf n j)).demandOn ∧
          (t.head (headOf n k)).demandHealth = (s.head (headOf n j)).demandHealth ∧
          (t.head (headOf n k)).demandOff = (s.head (headOf n j)).demandOff) ∧
      (∀ c, (t.chan c).refs =
        ((s.chan c).refs.filter fun p => decide (¬ (p.1 = .ramp n ∧ (c, p.2) ∈ old.layout.claims ∧
          (c, p.2) ∉ (settlePlan n img).plan.layout.claims))) ++
        ((settlePlan n img).plan.layout.claims.filter fun p =>
          decide (p.1 = c ∧ p ∉ old.layout.claims)).map fun p => (.ramp n, p.2)) ∧
      Answered s t l 0x12 .done (marksBytes (settlePlan n img).marks) ∧ OnlyRampAndRefs n s t)

/-- AMEND is installed at once outside METERING and FLUSHING and held pending in them (R17, R18), settled as R9 and R10
settle its seven fields, with its marks (R11). Rests on the model's log 24. -/
def Obligations.AmendTaken : Prop :=
  ∀ (s : State) (l : Link) (ramp : Byte) (control : Table Byte 16) (target : Byte) (n : RampNo) (p : Plan),
    s.takes l → rampArg ramp = some n → (s.ramp n).plan = some p → (s.ramp n).state ≠ .vacant →
    (s.ramp n).state ≠ .lockout → (s.ramp n).allows l = true →
    let a := settleAmendment p (rawControl control 0) target.toNat
    ControlSettled (controlAt control 0) p.layout.lanes p.layout.v p.timing.green p.timing.minRed a.control a.effMax ∧
    a.queueTarget = min p.queue.storage target.toNat ∧
    a.marks = Plan.changed { p with control := controlAt control 0, queue := { p.queue with target := target.toNat } }
      { p with control := a.control, queue := { p.queue with target := a.queueTarget } } ∧
    ∃ t, exec (.amend l ramp control target) s = .next t ∧
      ((s.ramp n).state = .metering ∨ (s.ramp n).state = .flushing →
        t.ramp n = { s.ramp n with amendment := some a }) ∧
      ((s.ramp n).state ≠ .metering → (s.ramp n).state ≠ .flushing →
        t.ramp n = { s.ramp n with
          plan := some { p with control := a.control, queue := { p.queue with target := a.queueTarget } }
          effMax := some a.effMax
          trimmed := mergeMarks (s.ramp n).trimmed a.marks
          amendment := none }) ∧
      (∀ f, f ∈ mergeMarks (s.ramp n).trimmed a.marks ↔
        if f ∈ [PlanField.targetOcc, .gain, .minRate, .maxRate, .startRate, .fallback, .queueTarget] then f ∈ a.marks
        else f ∈ (s.ramp n).trimmed) ∧
      Answered s t l 0x13 .done (marksBytes a.marks) ∧
      NoNotice s t l ∧ OnlyRamp n s t

/-- RETIRE by the ramp's state: VACANT at once, or CLOSING with retire pending, or the mark alone (R35, R36). Rests on the
model's log 29. -/
def Obligations.RetireTaken : Prop :=
  ∀ (s : State) (l : Link) (ramp : Byte) (n : RampNo) (p : Plan),
    s.takes l → rampArg ramp = some n → (s.ramp n).plan = some p → (s.ramp n).allows l = true →
    ((s.ramp n).state = .parked ∨ (s.ramp n).state = .lockout ∨ (s.ramp n).state = .opening →
      ∃ t, exec (.retire l ramp) s = .next t ∧ Vacated s t n ∧
        Raised t .rampState n.val (.rampState .vacant .retire) false ∧ Answered s t l 0x14 .done []) ∧
    ((s.ramp n).state = .metering ∨ (s.ramp n).state = .flushing →
      ∃ t, exec (.retire l ramp) s = .next t ∧ ClosingEntered s t n p true .retire ∧ Answered s t l 0x14 .done []) ∧
    ((s.ramp n).state = .closing →
      ∃ t, exec (.retire l ramp) s = .next t ∧ t.ramp n = { s.ramp n with retirePending := true } ∧
        t.heads = s.heads ∧ Answered s t l 0x14 .done [] ∧ NoNotice s t l ∧ OnlyRamp n s t)

/-- OPEN by the ramp's state (R24). -/
def Obligations.OpenTaken : Prop :=
  ∀ (s : State) (l : Link) (ramp : Byte) (n : RampNo) (p : Plan),
    s.takes l → rampArg ramp = some n → (s.ramp n).plan = some p →
    ((s.ramp n).state = .parked → (s.ramp n).allows l = true → s.permit = true →
      ∃ t, exec (.openRamp l ramp) s = .next t ∧
        t.ramp n = { s.ramp n with
          state := .opening, sub := some (if p.timing.warn = 0 then .startRed else .warn), subTimer := 0 } ∧
        (0 < p.timing.warn → t.heads = s.heads) ∧
        (p.timing.warn = 0 → ∀ k ∈ p.laneList, (t.head (headOf n k)).aspect = .red) ∧ t.beacon n = true ∧
        Raised t .rampState n.val (.rampState .opening .opened) false ∧ Answered s t l 0x15 .done [] ∧
        OnlyRamp n s t) ∧
    ((s.ramp n).state = .parked → (s.ramp n).allows l = true → s.permit = false →
      ∃ t, exec (.openRamp l ramp) s = .next t ∧ Refused s t l 0x15 .state) ∧
    ((s.ramp n).state = .opening ∨ (s.ramp n).state = .metering ∨ (s.ramp n).state = .flushing →
      (s.ramp n).allows l = true →
      ∃ t, exec (.openRamp l ramp) s = .next t ∧ Answered s t l 0x15 .done [] ∧ NoNotice s t l ∧ OnlyLinks s t) ∧
    ((s.ramp n).state = .closing ∨ (s.ramp n).state = .lockout →
      ∃ t, exec (.openRamp l ramp) s = .next t ∧ Refused s t l 0x15 .state)

/-- CLOSE by the ramp's state (R27). Rests on the model's log 29. -/
def Obligations.CloseTaken : Prop :=
  ∀ (s : State) (l : Link) (ramp : Byte) (n : RampNo) (p : Plan),
    s.takes l → rampArg ramp = some n → (s.ramp n).plan = some p →
    ((s.ramp n).state = .parked ∨ (s.ramp n).state = .closing → (s.ramp n).allows l = true →
      ∃ t, exec (.closeRamp l ramp) s = .next t ∧ Answered s t l 0x16 .done [] ∧ NoNotice s t l ∧ OnlyLinks s t) ∧
    ((s.ramp n).state = .opening → (s.ramp n).allows l = true →
      ∃ t, exec (.closeRamp l ramp) s = .next t ∧ (t.ramp n).state = .parked ∧ (t.ramp n).sub = none ∧
        (t.ramp n).stopped = some .command ∧ RatesKept (s.ramp n) (t.ramp n) ∧
        (t.ramp n).authority = (s.ramp n).authority ∧ (t.ramp n).override = (s.ramp n).override ∧
        (∀ k, (t.head (headOf n k)).aspect = .dark) ∧ t.beacon n = false ∧
        Raised t .rampState n.val (.rampState .parked .close) false ∧ Answered s t l 0x16 .done [] ∧
        OnlyRamp n s t) ∧
    ((s.ramp n).state = .metering ∨ (s.ramp n).state = .flushing → (s.ramp n).allows l = true →
      ∃ t, exec (.closeRamp l ramp) s = .next t ∧ ClosingEntered s t n p (s.ramp n).retirePending .close ∧
        Answered s t l 0x16 .done []) ∧
    ((s.ramp n).state = .lockout → ∃ t, exec (.closeRamp l ramp) s = .next t ∧ Refused s t l 0x16 .state)

/-- CLEAR LOCKOUT: CONFLICT while a lamp of lanes 1 to L is proved, otherwise PARKED, or VACANT when retire pending is set
(R34, R36). -/
def Obligations.ClearLockoutTaken : Prop :=
  ∀ (s : State) (l : Link) (ramp : Byte) (n : RampNo) (p : Plan),
    s.takes l → rampArg ramp = some n → (s.ramp n).plan = some p → (s.ramp n).state = .lockout →
    (s.ramp n).allows l = true →
    ((∃ k ∈ p.laneList, (s.head (headOf n k)).redProved = true ∨ (s.head (headOf n k)).greenProved = true) →
      ∃ t, exec (.clearLockout l ramp) s = .next t ∧ Refused s t l 0x17 .conflict) ∧
    ((∀ k ∈ p.laneList, (s.head (headOf n k)).redProved = false ∧ (s.head (headOf n k)).greenProved = false) →
      ((s.ramp n).retirePending = false →
        ∃ t, exec (.clearLockout l ramp) s = .next t ∧
          t.ramp n = { s.ramp n with
            state := .parked, sub := none, subTimer := 0, closeTimer := 0, stopped := some .command } ∧
          (∀ k, (t.head (headOf n k)).aspect = .dark) ∧
          Raised t .rampState n.val (.rampState .parked .clearLockout) false ∧ Answered s t l 0x17 .done [] ∧
          OnlyRamp n s t) ∧
      ((s.ramp n).retirePending = true →
        ∃ t, exec (.clearLockout l ramp) s = .next t ∧ Vacated s t n ∧
          Raised t .rampState n.val (.rampState .vacant .clearLockout) false ∧ Answered s t l 0x17 .done []))

/-- The commands that check authority refuse a ramp number out of range with RANGE, a VACANT ramp with ABSENT, a ramp in a
state they are not taken in with STATE, and then a ramp the other link holds with AUTHORITY (R122, and the orders of R12,
R17, R24, R27, R34, R35, R127, R129). -/
def Obligations.RampCommandsRefused : Prop :=
  ∀ (s : State) (l : Link) (ramp source slot : Byte) (control : Table Byte 16) (target : Byte) (rate duration : Word),
    s.takes l →
    ∀ c ∈ [(Instr.openRamp l ramp, (0x15 : Byte), [RampState.closing, .lockout]), (.closeRamp l ramp, 0x16, [.lockout]),
      (.amend l ramp control target, 0x13, [.lockout]),
      (.replacePlan l ramp source slot, 0x12, [.opening, .metering, .flushing, .closing, .lockout]),
      (.retire l ramp, 0x14, []), (.overrideRate l ramp rate duration, 0x18, []), (.endOverride l ramp, 0x19, []),
      (.clearLockout l ramp, 0x17, [.parked, .opening, .metering, .flushing, .closing])],
      (rampArg ramp = none → ∃ t, exec c.1 s = .next t ∧ Refused s t l c.2.1 .range) ∧
      (∀ n, rampArg ramp = some n →
        ((s.ramp n).state = .vacant → ∃ t, exec c.1 s = .next t ∧ Refused s t l c.2.1 .absent) ∧
        ((s.ramp n).plan.isSome = true → (s.ramp n).state ≠ .vacant →
          ((s.ramp n).state ∈ c.2.2 → ∃ t, exec c.1 s = .next t ∧ Refused s t l c.2.1 .state) ∧
          ((s.ramp n).state ∉ c.2.2 → (∃ k, k ≠ l ∧ (s.ramp n).authority = some k) →
            ∃ t, exec c.1 s = .next t ∧ Refused s t l c.2.1 .authority)))

/-! ### Ramp events -/

/-- WARN TIMER EXPIRY: START-RED with its timer at 0, RED on the heads of lanes 1 to L (R25). -/
def Obligations.WarnEnds : Prop :=
  ∀ (s : State) (n : RampNo) (p : Plan), s.resetHeld = false → (s.ramp n).state = .opening →
    (s.ramp n).sub = some .warn → (s.ramp n).plan = some p → p.timing.warn ≤ (s.ramp n).subTimer →
    ∃ t, exec (.warnTimerExpiry n) s = .next t ∧
      t.ramp n = { s.ramp n with sub := some .startRed, subTimer := 0 } ∧
      (∀ k ∈ p.laneList, t.head (headOf n k) =
        (s.head (headOf n k)).reprove { s.head (headOf n k) with cycle := .hold }) ∧
      (∀ k, k ∉ p.laneList → t.head (headOf n k) = s.head (headOf n k)) ∧ OnlyRamp n s t ∧ SetsOnly s t

/-- START-RED EXPIRY: METERING at the start rate with every lane READY, and the first release with what its green starts do
to the record (R99, R112 to R114), or the empty judgement that lanes all READY bring (R104), or FLUSHING at once when the
queue dwell is already met and the run of presence has not brought the alarm yet, the FLUSH notice carrying Q as that
release left it, Q then at the storage capacity less what the release of the new interval takes, the rate and intervals
those of the effective max rate (R26, R28, R39, R76, R99, R102, R106, R110, R111). Rests on the model's logs 16, 17, 31. -/
def Obligations.StartRedEnds : Prop :=
  ∀ (s : State) (n : RampNo) (p : Plan), s.resetHeld = false → (s.ramp n).Shaped → (s.ramp n).state = .opening →
    (s.ramp n).sub = some .startRed → (s.ramp n).plan = some p → p.timing.startRed ≤ (s.ramp n).subTimer →
    ∃ t, exec (.startRedExpiry n) s = .next t ∧ (t.ramp n).sub = none ∧
      (t.ramp n).computed = p.control.startRate ∧ (t.ramp n).lastUpdate = (s.ramp n).lastUpdate ∧
      Raised t .rampState n.val (.rampState .metering .startRedEnded) false ∧
      (∃ u v : State,
        u.ramp n = { s.ramp n with
          state := .metering, sub := none, subTimer := 0, emptyJudged := false, applied := p.control.startRate
          computed := p.control.startRate, limiting := some .start, intervals := p.intervals p.control.startRate } ∧
        (∀ k ∈ p.laneList, u.head (headOf n k) = (s.head (headOf n k)).reprove { s.head (headOf n k) with
          cycle := .ready, sinceStart := 6000, sinceEnd := 6000 }) ∧
        (∀ k, k ∉ p.laneList → u.head (headOf n k) = s.head (headOf n k)) ∧
        (u.lanesToRelease n p = [] → EmptyReported u v n p) ∧
        (u.lanesToRelease n p ≠ [] → GreenStarted u v n p (u.lanesToRelease n p)) ∧
        (∀ k, v.head (headOf n k) =
          if k ∈ u.lanesToRelease n p then
            (u.head (headOf n k)).reprove { u.head (headOf n k) with cycle := .green, sinceStart := 0 }
          else u.head (headOf n k)) ∧
        (∀ k ∈ u.lanesToRelease n p, (t.head (headOf n k)).cycle = .green ∧ (t.head (headOf n k)).sinceStart = 0) ∧
        ((s.ramp n).dwellMet = false ∨ (s.ramp n).alarmTaken = true →
          t.ramp n = v.ramp n ∧ ∀ k, t.head (headOf n k) = v.head (headOf n k)) ∧
        ((s.ramp n).dwellMet = true → (s.ramp n).alarmTaken = false →
          IntervalTaken v t n p p.queue.storage ∧
          Raised t .flush n.val (.flush .flushing .queueAlarm p.layout.queueEnd p.queue.dwell
            ((s.ramp n).qAfter p (u.lanesToRelease n p)) p.queue.storage) true)) ∧
      ((s.ramp n).dwellMet = false ∨ (s.ramp n).alarmTaken = true →
        (t.ramp n).state = .metering ∧ (t.ramp n).applied = p.control.startRate ∧
          (t.ramp n).limiting = some .start ∧ (t.ramp n).intervals = p.intervals p.control.startRate ∧
          ∀ k ∈ p.laneList, (t.head (headOf n k)).sinceEnd = 6000 ∧
            ((t.head (headOf n k)).cycle = .ready ∨ (t.head (headOf n k)).cycle = .green)) ∧
      ((s.ramp n).dwellMet = true → (s.ramp n).alarmTaken = false →
        t.ramp n = { s.ramp n with
            state := .flushing, sub := none, subTimer := 0, applied := (s.ramp n).effMax.getD 0
            computed := p.control.startRate, limiting := some .flush
            intervals := p.intervals ((s.ramp n).effMax.getD 0), dwellTaken := true, alarmTaken := true, q := (t.ramp n).q
            emptyJudged := (t.ramp n).emptyJudged, emptyPending := (t.ramp n).emptyPending } ∧
          (t.ramp n).q ≤ p.queue.storage ∧ ((s.ramp n).hold = true → (t.ramp n).q = p.queue.storage)) ∧
      OnlyRamp n s t ∧ SetsOnly s t

/-- QUEUE ALARM: a METERING ramp flushes at its effective max rate with the FLUSH notice live, once for a run of presence, Q
at the storage capacity less what the release of the new interval takes (R99, R104, R111); in any other state Q goes to the
storage capacity and nothing else changes (R102, R103, R106). That a run which has brought the alarm reaches a raised dwell
without another is the model's choice. Rests on the model's logs 16, 17, 31. -/
def Obligations.QueueAlarmTaken : Prop :=
  ∀ (s : State) (n : RampNo) (p : Plan), s.resetHeld = false → (s.ramp n).Shaped → (s.ramp n).plan = some p →
    (s.ramp n).state ≠ .vacant → (s.ramp n).effPresence = true → p.queue.dwell * 100 ≤ (s.ramp n).contOn →
    (s.ramp n).dwellTaken = false →
    ((s.ramp n).state = .metering → (s.ramp n).alarmTaken = true →
      ∃ t, exec (.queueAlarm n) s = .next t ∧ t.ramp n = { s.ramp n with dwellTaken := true } ∧ t.heads = s.heads ∧
        (∀ l, t.link l = s.link l) ∧ OnlyRamp n s t) ∧
    ((s.ramp n).state = .metering → (s.ramp n).alarmTaken = false →
      ∃ t, exec (.queueAlarm n) s = .next t ∧
        t.ramp n = { s.ramp n with
          state := .flushing, applied := (s.ramp n).effMax.getD 0, limiting := some .flush
          intervals := p.intervals ((s.ramp n).effMax.getD 0), dwellTaken := true, alarmTaken := true, q := (t.ramp n).q
          emptyJudged := (t.ramp n).emptyJudged, emptyPending := (t.ramp n).emptyPending } ∧
        IntervalTaken s t n p p.queue.storage ∧
        ((s.ramp n).hold = true → (t.ramp n).q = p.queue.storage) ∧ (t.ramp n).q ≤ p.queue.storage ∧
        Raised t .flush n.val
          (.flush .flushing .queueAlarm p.layout.queueEnd p.queue.dwell (s.ramp n).q p.queue.storage) true ∧
        OnlyRamp n s t ∧ SetsOnly s t) ∧
    ((s.ramp n).state ≠ .metering →
      ∃ t, exec (.queueAlarm n) s = .next t ∧
        t.ramp n = { s.ramp n with q := p.queue.storage, dwellTaken := true } ∧ t.heads = s.heads ∧
        (∀ l, t.link l = s.link l) ∧ OnlyRamp n s t)

/-- FLUSH HOLD REACHED: with Q at most the target the ramp returns to METERING, its rate and intervals unchanged (R29, R105,
R106); with Q above it nothing changes. -/
def Obligations.FlushExitTaken : Prop :=
  ∀ (s : State) (n : RampNo) (p : Plan), s.resetHeld = false → (s.ramp n).plan = some p →
    (s.ramp n).state = .flushing → p.queue.flushHold * 100 ≤ (s.ramp n).contOff →
    ((s.ramp n).q ≤ p.queue.target →
      ∃ t, exec (.flushHoldReached n) s = .next t ∧ t.ramp n = { s.ramp n with state := .metering } ∧
        t.heads = s.heads ∧ Raised t .rampState n.val (.rampState .metering .flushEnded) false ∧
        NotLive t .flush n.val ∧ OnlyRamp n s t ∧ SetsOnly s t) ∧
    (p.queue.target < (s.ramp n).q → exec (.flushHoldReached n) s = .next s)

/-- LANE READY and SPACING EXPIRY: a lane past its interval and minimum red becomes READY, and goes GREEN when it is called,
spaced and the lowest such lane; in TOGETHER order the group does so together, and in SETTLE it becomes READY together (R111
to R114, R116). Each release starts its lanes' time since last green start at 0 and takes V vehicles off Q for each lane
without a GOOD passage channel while the hold is clear, and may end a flush (R99, R105, R115); without a release, lanes that
are then all READY may bring the empty judgement in the event (R104). What the conditions of a release are is said first
(R112 to R114). Rests on the model's log 17. -/
def Obligations.LanesRelease : Prop :=
  (∀ (s : State) (n : RampNo) (p : Plan),
    (∀ k, s.spaced n p k = true ↔ ∀ j ∈ p.laneList, j ≠ k →
      (s.ramp n).interval k / p.layout.lanes ≤ (s.head (headOf n j)).sinceStart) ∧
    (∀ k, (s.head (headOf n k)).called = true ↔
      ((s.head (headOf n k)).demandHealth = some .good → (s.head (headOf n k)).demandOn = true)) ∧
    (∀ k, s.releasable n p k = true ↔
      (s.head (headOf n k)).cycle = .ready ∧ (s.head (headOf n k)).called = true ∧ s.spaced n p k = true) ∧
    (s.groupCalled n p = true ↔ ((∃ k ∈ p.laneList, (s.head (headOf n k)).demandHealth = some .good) →
      ∃ k ∈ p.laneList, (s.head (headOf n k)).demandHealth = some .good ∧ (s.head (headOf n k)).demandOn = true)) ∧
    (p.layout.order = .staggered →
      (∀ k, s.lanesToRelease n p = [k] ↔ k ∈ p.laneList ∧ s.releasable n p k = true ∧
        ∀ j ∈ p.laneList, j < k → s.releasable n p j = false) ∧
      (s.lanesToRelease n p = [] ↔ ∀ k ∈ p.laneList, s.releasable n p k = false)) ∧
    (p.layout.order = .together → s.lanesToRelease n p =
      if (∀ k ∈ p.laneList, (s.head (headOf n k)).cycle = .ready) ∧ s.groupCalled n p = true then p.laneList else [])) ∧
  ∀ (s : State) (n : RampNo) (p : Plan) (k : LaneNo), s.resetHeld = false → (s.ramp n).plan = some p →
    k ∈ p.laneList →
    (p.layout.order = .staggered → (s.head (headOf n k)).cycle = .hold →
      (s.ramp n).interval k ≤ (s.head (headOf n k)).sinceStart → p.timing.minRed ≤ (s.head (headOf n k)).sinceEnd →
      ((s.ramp n).settling = true →
        ∃ t, exec (.laneReady n k) s = .next t ∧ (t.head (headOf n k)).cycle = .ready ∧ t.ramps = s.ramps ∧
          (∀ h, h ≠ headOf n k → t.head h = s.head h) ∧ OnlyRamp n s t ∧ SetsOnly s t) ∧
      ((s.ramp n).cycling = true → (s.head (headOf n k)).called = true → s.spaced n p k = true →
        (∀ j ∈ p.laneList, j < k → s.releasable n p j = false) →
        ∃ t, exec (.laneReady n k) s = .next t ∧ GreenStarted s t n p [k] ∧
          (∀ h, h ≠ headOf n k → t.head h = s.head h) ∧ OnlyRamp n s t ∧ SetsOnly s t) ∧
      ((s.ramp n).cycling = true → (∀ j ∈ p.laneList, s.releasable n p j = false) →
        ((s.head (headOf n k)).called = false ∨ s.spaced n p k = false) →
        ∃ t, exec (.laneReady n k) s = .next t ∧ (t.head (headOf n k)).cycle = .ready ∧ EmptyReported s t n p ∧
          (∀ h, h ≠ headOf n k → t.head h = s.head h) ∧ OnlyRamp n s t ∧ SetsOnly s t)) ∧
    (p.layout.order = .together → (s.ramp n).cycling = true ∨ (s.ramp n).settling = true →
      (∀ j ∈ p.laneList, (s.head (headOf n j)).cycle = .hold ∧
        (s.ramp n).interval j ≤ (s.head (headOf n j)).sinceStart ∧
        p.timing.minRed ≤ (s.head (headOf n j)).sinceEnd) →
      ∃ t, exec (.laneReady n k) s = .next t ∧ OnlyRamp n s t ∧ SetsOnly s t ∧
        ((s.ramp n).cycling = true ∧ s.groupCalled n p = true → GreenStarted s t n p p.laneList) ∧
        ((s.ramp n).settling = true ∨ s.groupCalled n p = false →
          (∀ j ∈ p.laneList, (t.head (headOf n j)).cycle = .ready) ∧ EmptyReported s t n p)) ∧
    (p.layout.order = .staggered → (s.ramp n).cycling = true → s.releasable n p k = true →
      (∀ j ∈ p.laneList, j < k → s.releasable n p j = false) →
      ∃ t, exec (.spacingExpiry n k) s = .next t ∧ GreenStarted s t n p [k] ∧
        (∀ h, h ≠ headOf n k → t.head h = s.head h) ∧ OnlyRamp n s t ∧ SetsOnly s t)

/-- GREEN END: after the plan's green time the lane, or the group in TOGETHER order, returns to HOLD with RED commanded and
its time since the last green end at 0 (R114, R115). -/
def Obligations.GreenEnds : Prop :=
  ∀ (s : State) (n : RampNo) (p : Plan) (k : LaneNo), s.resetHeld = false → (s.ramp n).plan = some p →
    k ∈ p.laneList → (s.head (headOf n k)).cycle = .green → p.timing.green ≤ (s.head (headOf n k)).sinceStart →
    ∃ t, exec (.greenEnd n k) s = .next t ∧
      (∀ j, t.head (headOf n j) =
        if (j = k ∨ p.layout.order = .together ∧ j ∈ p.laneList) ∧ (s.head (headOf n j)).cycle = .green ∧
            p.timing.green ≤ (s.head (headOf n j)).sinceStart then
          (s.head (headOf n j)).reprove { s.head (headOf n j) with cycle := .hold, sinceEnd := 0 }
        else s.head (headOf n j)) ∧
      (t.head (headOf n k)).aspect = .red ∧ t.ramps = s.ramps ∧ OnlyRamp n s t ∧ SetsOnly s t

/-- SETTLE COMPLETE: the steady green begins, or CLOSING ends when the close green is 0 (R30, R116, R117). -/
def Obligations.SettleCompletes : Prop :=
  ∀ (s : State) (n : RampNo) (p : Plan), s.resetHeld = false → (s.ramp n).plan = some p →
    (s.ramp n).state = .closing → (s.ramp n).sub = some .settle →
    (∀ k ∈ p.laneList, (s.head (headOf n k)).settled p.timing.minRed = true) →
    (0 < p.timing.closeGreen →
      ∃ t, exec (.settleComplete n) s = .next t ∧
        t.ramp n = { s.ramp n with sub := some .green, closeTimer := 0 } ∧
        (∀ k ∈ p.laneList, (t.head (headOf n k)).cycle = .restGreen ∧ (t.head (headOf n k)).aspect = .green ∧
          (t.head (headOf n k)).sinceStart = 0) ∧
        t.beacon n = false ∧ OnlyRamp n s t ∧ SetsOnly s t) ∧
    (p.timing.closeGreen = 0 →
      ∃ t, exec (.settleComplete n) s = .next t ∧ ClosingOver s t n (s.ramp n).retirePending ∧ SetsOnly s t)

/-- CLOSE GREEN END: CLOSING ends with the heads DARK and their times since the last green end at 0 (R31, R117). -/
def Obligations.CloseGreenEnds : Prop :=
  ∀ (s : State) (n : RampNo) (p : Plan), s.resetHeld = false → (s.ramp n).plan = some p →
    (s.ramp n).state = .closing → (s.ramp n).sub = some .green → p.timing.closeGreen ≤ (s.ramp n).closeTimer →
    ∃ t, exec (.closeGreenEnd n) s = .next t ∧ ClosingOver s t n (s.ramp n).retirePending ∧
      (∀ k, (s.head (headOf n k)).cycle = .restGreen → (t.head (headOf n k)).sinceEnd = 0) ∧ SetsOnly s t

/-- EMPTY JUDGEMENT: a judgement that an event has reported, or that the demand-off times now bring with every lane READY
and a GOOD demand channel on each: in METERING and FLUSHING Q is 0 whether or not the hold is set, and a flush whose hold is
met ends with its RAMP STATE notice and the end of its FLUSH notice's live flag; in any other state the judgement is
disregarded (R39, R104 to R106). A judgement reported is taken although one of its conditions has failed since. That it is
taken in an event of its own is the model's reading. Rests on the model's log 17. -/
def Obligations.EmptyJudged : Prop :=
  ∀ (s : State) (n : RampNo) (p : Plan), s.resetHeld = false → (s.ramp n).plan = some p →
    ((s.ramp n).emptyPending = true ∨ (s.ramp n).emptyJudged = false ∧ s.AllClear n p →
      (s.ramp n).state = .metering ∨ (s.ramp n).state = .flushing →
      ∃ t, exec (.emptyJudgement n) s = .next t ∧
        t.ramp n = { s.ramp n with
          q := 0, emptyPending := false, emptyJudged := (t.ramp n).emptyJudged
          state := if (s.ramp n).state = .flushing ∧ p.queue.flushHold * 100 ≤ (s.ramp n).contOff then .metering
            else (s.ramp n).state } ∧
        ((t.ramp n).emptyJudged = true ↔ (s.ramp n).emptyJudged = true ∨ s.AllClear n p) ∧
        ((s.ramp n).state = .flushing ∧ p.queue.flushHold * 100 ≤ (s.ramp n).contOff →
          Raised t .rampState n.val (.rampState .metering .flushEnded) false ∧ NotLive t .flush n.val) ∧
        (¬ ((s.ramp n).state = .flushing ∧ p.queue.flushHold * 100 ≤ (s.ramp n).contOff) → ∀ l, t.link l = s.link l) ∧
        t.heads = s.heads ∧ OnlyRamp n s t ∧ SetsOnly s t) ∧
    ((s.ramp n).emptyPending = true → (s.ramp n).state ≠ .metering → (s.ramp n).state ≠ .flushing →
      ∃ t, exec (.emptyJudgement n) s = .next t ∧ t.ramp n = { s.ramp n with emptyPending := false } ∧
        t.heads = s.heads ∧ (∀ l, t.link l = s.link l) ∧ OnlyRamp n s t) ∧
    ((s.ramp n).emptyPending = false → (s.ramp n).emptyJudged = true ∨ ¬ s.AllClear n p →
      exec (.emptyJudgement n) s = .next s)

/-! ### The rate -/

/-- BULLETIN ARRIVAL: a METERING ramp installs its amendment and takes the update's value as computed and applied rate; a
FLUSHING ramp installs its amendment, its applied rate then the new effective max rate, takes the computed rate alone, and
ends its flush in the event when both conditions now hold; every other ramp keeps its record. A ramp that takes new
intervals has its lanes compared with them and the release they bring, and the heads of the others stay (R18, R29, R61, R62,
R74, R75, R99, R105, R106, R110 to R114). Rests on the model's logs 7, 17, 37, 46, 54. -/
def Obligations.BulletinTaken : Prop :=
  ∀ (s : State) (sum : Summary) (b : Bulletin) (rest : List (Summary × Bulletin)), s.resetHeld = false →
    s.transit = (sum, b) :: rest →
    ∃ t, exec .bulletinArrival s = .next t ∧ t.transit = rest ∧
      (∀ n p, (s.ramp n).state = .metering → (s.ramp n).installAmendment.plan = some p →
        (t.ramp n).state = .metering ∧ (t.ramp n).amendment = none ∧ (t.ramp n).plan = some p ∧
          (t.ramp n).computed = ((s.ramp n).installAmendment.update p n sum b).1 ∧
          (t.ramp n).applied = ((s.ramp n).installAmendment.update p n sum b).1 ∧
          (t.ramp n).limiting = some ((s.ramp n).installAmendment.update p n sum b).2 ∧
          (t.ramp n).intervals = p.intervals ((s.ramp n).installAmendment.update p n sum b).1 ∧
          (t.ramp n).lastUpdate = some b.number ∧ IntervalTaken s t n p (s.ramp n).q) ∧
      (∀ n p, (s.ramp n).state = .flushing → (s.ramp n).amendment = none → (s.ramp n).plan = some p →
        (t.ramp n).computed = ((s.ramp n).update p n sum b).1 ∧ (t.ramp n).lastUpdate = some b.number ∧
          (t.ramp n).applied = (s.ramp n).applied ∧ (t.ramp n).limiting = (s.ramp n).limiting ∧
          (t.ramp n).intervals = (s.ramp n).intervals ∧ (t.ramp n).plan = some p ∧ (t.ramp n).q = (s.ramp n).q) ∧
      (∀ n a p, (s.ramp n).state = .flushing → (s.ramp n).amendment = some a → (s.ramp n).plan = some p →
        (t.ramp n).plan = some { p with control := a.control, queue := { p.queue with target := a.queueTarget } } ∧
          (t.ramp n).effMax = some a.effMax ∧ (t.ramp n).trimmed = mergeMarks (s.ramp n).trimmed a.marks ∧
          (t.ramp n).amendment = none ∧ (t.ramp n).applied = a.effMax ∧ (t.ramp n).limiting = some .flush ∧
          (t.ramp n).intervals = p.intervals a.effMax ∧
          (t.ramp n).computed = (({ (s.ramp n).installAmendment with applied := a.effMax } : Ramp).update
            { p with control := a.control, queue := { p.queue with target := a.queueTarget } } n sum b).1 ∧
          (t.ramp n).lastUpdate = some b.number ∧ (t.ramp n).q ≤ (s.ramp n).q ∧
          IntervalTaken s t n { p with control := a.control, queue := { p.queue with target := a.queueTarget } } (s.ramp n).q) ∧
      (∀ n p, (s.ramp n).state = .flushing → (t.ramp n).plan = some p →
        (p.queue.flushHold * 100 ≤ (s.ramp n).contOff ∧ (t.ramp n).q ≤ p.queue.target →
          (t.ramp n).state = .metering ∧ Raised t .rampState n.val (.rampState .metering .flushEnded) false ∧
            NotLive t .flush n.val) ∧
        (¬ (p.queue.flushHold * 100 ≤ (s.ramp n).contOff ∧ (t.ramp n).q ≤ p.queue.target) →
          (t.ramp n).state = .flushing)) ∧
      (∀ n, (s.ramp n).state ≠ .metering → (s.ramp n).state ≠ .flushing → t.ramp n = s.ramp n) ∧
      (∀ h, (s.ramp (headRamp h)).state ≠ .metering →
        ((s.ramp (headRamp h)).state = .flushing → (s.ramp (headRamp h)).amendment = none) → t.head h = s.head h) ∧
      t.chans = s.chans ∧ t.zones = s.zones ∧ t.bulletin = s.bulletin ∧ t.slots = s.slots ∧ t.stage = s.stage ∧
      t.settings = s.settings ∧ SetsOnly s t

/-- An update's value and limiting term: the mean occupancy of the VALID mainline entries (R64), the demand D (R65), the
base value of an override, of the local term or of the fallback rate (R67 to R69), the least zone limit below it, of the
lowest zone that gives it, and none under an override (R70), the queue floor (R71), and the final value brought into the
range from the minimum rate to the effective max rate, in which it always lies (R72, R73). -/
def Obligations.FinalValueInRange : Prop :=
  (∀ (sum : Summary) (chans : List Chan),
    let valid := chans.filter fun c => decide ((sum.entries.get c).validity = .valid)
    (valid = [] → sum.meanOccupancy chans = none) ∧
    (valid ≠ [] → sum.meanOccupancy chans =
      some ((valid.map fun c => (sum.entries.get c).occupancy).sum / valid.length))) ∧
  (∀ (b : Bulletin) (n : RampNo) (z : ZoneNo),
    b.share n z = (b.entries.find? fun e => decide (e.zone = z)).bind fun e => weightOf n e.shares) ∧
  (∀ (r : Ramp) (p : Plan) (n : RampNo) (sum : Summary) (b : Bulletin) (eff : Nat), r.effMax = some eff →
    p.control.minRate ≤ eff →
    ∃ (d floor : Nat) (base zoned floored : Int × Limiting),
      d = (match p.layout.entry with
        | none => r.applied
        | some c =>
          if (sum.entries.get c).validity = .valid then (sum.entries.get c).count * 360000 / sum.w else r.applied) ∧
      base = (match r.override, sum.meanOccupancy p.layout.mainline with
        | some o, _ => (((max p.control.minRate (min eff o.rate) : Nat) : Int), .override)
        | none, some om =>
          (r.applied + ((p.control.gain : Int) * ((p.control.target : Int) - (om : Int))).tdiv 16, .localTerm)
        | none, none => (p.control.fallback, .fallback)) ∧
      (r.override ≠ none → zoned = base) ∧
      (r.override = none →
        (zoned = base ∨ ∃ z share, b.share n z = some share ∧ zoned = (((d - share : Nat) : Int), .zone z) ∧
          zoned.1 < base.1 ∧ ∀ y < z, ∀ other, b.share n y = some other → zoned.1 < ((d - other : Nat) : Int)) ∧
        ∀ y other, b.share n y = some other → zoned.1 ≤ ((d - other : Nat) : Int)) ∧
      floor = (if p.queue.target < r.q then d + (r.q - p.queue.target) * 360000 / sum.w else 0) ∧
      floored = (if zoned.1 < (floor : Int) then ((floor : Int), .queue) else zoned) ∧
      r.update p n sum b =
        if floored.1 < (p.control.minRate : Int) then (p.control.minRate, .minimum)
        else if (eff : Int) < floored.1 then (eff, .maximum) else (floored.1.toNat, floored.2)) ∧
  (∀ (lo hi : Nat) (v : Int × Limiting), lo ≤ hi →
    (v.1 < (lo : Int) → (finalValue lo hi v).1 = lo) ∧ ((hi : Int) < v.1 → (finalValue lo hi v).1 = hi) ∧
    ((lo : Int) ≤ v.1 → v.1 ≤ (hi : Int) → ((finalValue lo hi v).1 : Int) = v.1) ∧
    lo ≤ (finalValue lo hi v).1 ∧ (finalValue lo hi v).1 ≤ hi) ∧
  (∀ (r : Ramp) (p : Plan) (n : RampNo) (sum : Summary) (b : Bulletin) (eff : Nat), r.effMax = some eff →
    p.control.minRate ≤ eff → p.control.minRate ≤ (r.update p n sum b).1 ∧ (r.update p n sum b).1 ≤ eff)

/-! ### Authority -/

/-- TAKE AUTHORITY for one ramp by the authority held, the sending link and TAKEOVER, and with ALL for each ramp (R123,
R124). -/
def Obligations.AuthorityTaken : Prop :=
  ∀ (s : State) (l : Link) (ramp : Byte), s.takes l → ramp ≠ 0xFF →
    (rampArg ramp = none → ∃ t, exec (.takeAuthority l ramp) s = .next t ∧ Refused s t l 0x1A .range) ∧
    (∀ n, rampArg ramp = some n →
      ((s.ramp n).state = .vacant → ∃ t, exec (.takeAuthority l ramp) s = .next t ∧ Refused s t l 0x1A .absent) ∧
      ((s.ramp n).state ≠ .vacant →
        ((s.ramp n).authority = none → (l = .loc ∨ s.takeover = false) →
          ∃ t, exec (.takeAuthority l ramp) s = .next t ∧ t.ramp n = { s.ramp n with authority := some l } ∧
            t.heads = s.heads ∧ Answered s t l 0x1A .done [1] ∧ NoNotice s t l ∧ OnlyRamp n s t) ∧
        ((s.ramp n).authority = some l → (l = .loc ∨ s.takeover = false) →
          ∃ t, exec (.takeAuthority l ramp) s = .next t ∧ Answered s t l 0x1A .done [2] ∧ NoNotice s t l ∧
            OnlyLinks s t) ∧
        ((s.ramp n).authority = some .centre → l = .loc → s.takeover = true →
          ∃ t, exec (.takeAuthority l ramp) s = .next t ∧
            (t.ramp n).authority = some .loc ∧
            (t.ramp n).override = (match (s.ramp n).override with
              | none => none
              | some o => if o.setBy = .centre then none else some o) ∧
            t.ramp n = { s.ramp n with authority := some .loc, override := (t.ramp n).override } ∧
            t.heads = s.heads ∧ Answered s t l 0x1A .done [1] ∧ NoNotice s t l ∧ OnlyRamp n s t) ∧
        ((l = .centre ∧ (s.takeover = true ∨ (s.ramp n).authority = some .loc) ∨
            l = .loc ∧ s.takeover = false ∧ (s.ramp n).authority = some .centre) →
          ∃ t, exec (.takeAuthority l ramp) s = .next t ∧ Refused s t l 0x1A .authority))) ∧
    (∃ t, exec (.takeAuthorityAll l) s = .next t ∧ (∀ n, t.ramp n = ((s.ramp n).take l s.takeover).1) ∧
      Answered s t l 0x1A .done (s.ramps.cells.map fun r => (r.take l s.takeover).2.byte) ∧ NoNotice s t l ∧
      t.heads = s.heads ∧ t.chans = s.chans ∧ t.zones = s.zones ∧ RestSame s t)

/-- YIELD AUTHORITY for one ramp and with ALL (R125); the override stays in place. -/
def Obligations.AuthorityYielded : Prop :=
  ∀ (s : State) (l : Link) (ramp : Byte), s.takes l → ramp ≠ 0xFF →
    (rampArg ramp = none → ∃ t, exec (.yieldAuthority l ramp) s = .next t ∧ Refused s t l 0x1B .range) ∧
    (∀ n, rampArg ramp = some n →
      ((s.ramp n).state = .vacant → ∃ t, exec (.yieldAuthority l ramp) s = .next t ∧ Refused s t l 0x1B .absent) ∧
      ((s.ramp n).state ≠ .vacant →
        ((s.ramp n).authority = some l →
          ∃ t, exec (.yieldAuthority l ramp) s = .next t ∧ t.ramp n = { s.ramp n with authority := none } ∧
            t.heads = s.heads ∧ Answered s t l 0x1B .done [4] ∧ NoNotice s t l ∧ OnlyRamp n s t) ∧
        ((s.ramp n).authority = none →
          ∃ t, exec (.yieldAuthority l ramp) s = .next t ∧ Answered s t l 0x1B .done [5] ∧ NoNotice s t l ∧
            OnlyLinks s t) ∧
        ((∃ k, k ≠ l ∧ (s.ramp n).authority = some k) →
          ∃ t, exec (.yieldAuthority l ramp) s = .next t ∧ Refused s t l 0x1B .authority))) ∧
    (∃ t, exec (.yieldAuthorityAll l) s = .next t ∧
      (∀ n, t.ramp n = if (s.ramp n).state ≠ .vacant ∧ (s.ramp n).authority = some l then
        { s.ramp n with authority := none } else s.ramp n) ∧
      Answered s t l 0x1B .done (s.ramps.cells.map fun r => (r.yieldTo l).2.byte) ∧ NoNotice s t l ∧
      t.heads = s.heads ∧ t.chans = s.chans ∧ t.zones = s.zones ∧ RestSame s t)

/-- OVERRIDE writes the override wholly, END OVERRIDE and the expiry remove it wholly; the countdown of a timed override
shows no remaining time of 0 before the event that removes it (R127, R128, R129). Rests on the model's log 4. -/
def Obligations.OverridesSetAndEnded : Prop :=
  ∀ (s : State) (l : Link) (ramp : Byte) (rate duration : Word) (n : RampNo), rampArg ramp = some n →
    (s.takes l → (s.ramp n).plan.isSome = true → (s.ramp n).state ≠ .vacant → (s.ramp n).allows l = true →
      (60 ≤ rate.toNat → rate.toNat ≤ 5400 → duration.toNat ≤ 7200 →
        ∃ t, exec (.overrideRate l ramp rate duration) s = .next t ∧
          t.ramp n = { s.ramp n with override := some (Override.ofArgs l rate duration) } ∧
          Override.ofArgs l rate duration =
            ⟨rate.toNat, if duration = 0 then none else some duration.toNat, l, 0⟩ ∧
          t.heads = s.heads ∧ Answered s t l 0x18 .done [] ∧ NoNotice s t l ∧ OnlyRamp n s t) ∧
      ((rate.toNat < 60 ∨ 5400 < rate.toNat ∨ 7200 < duration.toNat) →
        ∃ t, exec (.overrideRate l ramp rate duration) s = .next t ∧ Refused s t l 0x18 .range) ∧
      (∃ t, exec (.endOverride l ramp) s = .next t ∧ t.ramp n = { s.ramp n with override := none } ∧
        t.heads = s.heads ∧ Answered s t l 0x19 .done [] ∧ NoNotice s t l ∧ OnlyRamp n s t)) ∧
    (∀ o k, (s.ramp n).override = some o → o.remaining = some k → (s.tick.ramp n).override = some { o with
      phase := if o.phase + 1 < 100 ∨ k ≤ 1 then min 100 (o.phase + 1) else 0
      remaining := some (if o.phase + 1 < 100 ∨ k ≤ 1 then k else k - 1) }) ∧
    (∀ o k, s.resetHeld = false → (s.ramp n).override = some o → o.remaining = some k → k ≤ 1 → 100 ≤ o.phase →
      ∃ t, exec (.overrideExpiry n) s = .next t ∧ t.ramp n = { s.ramp n with override := none } ∧
        t.heads = s.heads ∧ (∀ k, t.link k = s.link k) ∧ OnlyRamp n s t)

/-- The TAKEOVER line: an assertion or a withdrawal changes the line and no record (R126). -/
def Obligations.TakeoverLine : Prop :=
  ∀ s : State, exec .takeoverAssert s = .next { s with takeover := true } ∧
    exec .takeoverWithdraw s = .next { s with takeover := false }

/-! ### Zones -/

/-- ZONE DEFINE: the ten checks of R80 in their order, each with its refusal, and the definition installed when all pass
(R81). -/
def Obligations.ZoneDefined : Prop :=
  ∀ (s : State) (l : Link) (a : ZoneDefineArgs), s.takes l →
    FirstRefusal (.zoneDefine l a) s l 0x20 [(zoneArg a.zone ≠ none, .range)] (∀ z, zoneArg a.zone = some z →
      FirstRefusal (.zoneDefine l a) s l 0x20
        [((s.zone z).state = .vacant, .state),
          (1 ≤ a.detectors.length ∧ a.detectors.length ≤ 4 ∧ allArgs chanArg a.detectors ≠ none, .range),
          (50 ≤ a.oc.toNat ∧ a.oc.toNat ≤ 600 ∧ 1 ≤ a.gz.toNat ∧ a.gz.toNat ≤ 255 ∧ a.rmax.toNat ≤ 3000, .range),
          (a.members.length ≤ 6 ∧ allArgs memberArg a.members ≠ none, .range)]
        (∀ dets members, allArgs chanArg a.detectors = some dets → allArgs memberArg a.members = some members →
          FirstRefusal (.zoneDefine l a) s l 0x20
            [(noRepeat dets = true, .conflict),
              (∀ c ∈ dets, (s.chan c).kind = none ∨ (s.chan c).kind = some .mainline, .conflict),
              (noRepeat (members.map (·.1)) = true, .conflict),
              (∀ m ∈ members, (s.ramp m.1).state ≠ .vacant, .absent),
              (∀ m ∈ members, s.zoneCount m.1 + 1 ≤ 3, .conflict)]
            (∃ t, exec (.zoneDefine l a) s = .next t ∧
              t.zone z =
                ⟨.idle, some l, dets, a.oc.toNat, a.gz.toNat, a.rmax.toNat, members, 0, false, none, none, none⟩ ∧
              (∀ y, y ≠ z → t.zone y = s.zone y) ∧
              (∀ c, (t.chan c).refs = (s.chan c).refs ++
                (dets.filter fun d => decide (d = c)).map fun _ => (.zone z, .mainline)) ∧
              (∀ n, t.ramp n = { s.ramp n with
                joined := if n ∈ members.map (·.1) then insertZone z (s.ramp n).joined else (s.ramp n).joined }) ∧
              t.heads = s.heads ∧ Raised t .zone z.val (.zoneChanged .idle 0 false .defined) false ∧
              Answered s t l 0x20 .done [] ∧ RestSame s t)))

/-- ZONE AMEND: the nine checks of R83 in their order, each with its refusal; one that passes them is merged and settles
ownership, and no member, reduction or state changes yet (R82 to R84). That the later of two weights for one ramp stands is
the model's choice. Rests on the model's log 38. -/
def Obligations.ZoneAmended : Prop :=
  ∀ (s : State) (l : Link) (a : ZoneAmendArgs), s.takes l →
    FirstRefusal (.zoneAmend l a) s l 0x21 [(zoneArg a.zone ≠ none, .range)] (∀ z, zoneArg a.zone = some z →
      FirstRefusal (.zoneAmend l a) s l 0x21
        [((s.zone z).state ≠ .vacant, .absent), (∀ k, k ≠ l → (s.zone z).owner ≠ some k, .authority),
          ((a.oc = 0xFFFF ∨ 50 ≤ a.oc.toNat ∧ a.oc.toNat ≤ 600) ∧ (a.rmax = 0xFFFF ∨ a.rmax.toNat ≤ 3000) ∧
            allArgs memberArg a.weights ≠ none ∧ allArgs memberArg a.additions ≠ none, .range)]
        (∀ weights additions, allArgs memberArg a.weights = some weights → allArgs memberArg a.additions = some additions →
          FirstRefusal (.zoneAmend l a) s l 0x21
            [(∀ m ∈ weights, (s.zone z).names m.1 = true, .absent),
              (noRepeat (additions.map (·.1)) = true ∧ ∀ m ∈ additions, (s.zone z).names m.1 = false, .conflict),
              (∀ m ∈ additions, (s.ramp m.1).state ≠ .vacant, .absent),
              ((s.zone z).members.length + (s.zone z).additions.length + additions.length ≤ 6, .range),
              (∀ m ∈ additions, s.zoneCount m.1 + 1 ≤ 3, .conflict)]
            (∃ t, exec (.zoneAmend l a) s = .next t ∧
              t.zone z = { s.zone z with owner := some l, amendment := (t.zone z).amendment } ∧
              (a.oc = 0xFFFF ∧ a.gz = 0 ∧ a.rmax = 0xFFFF ∧ weights = [] ∧ additions = [] →
                (t.zone z).amendment = (s.zone z).amendment) ∧
              (¬ (a.oc = 0xFFFF ∧ a.gz = 0 ∧ a.rmax = 0xFFFF ∧ weights = [] ∧ additions = []) →
                ∃ new, (t.zone z).amendment = some new ∧
                  Merged ((s.zone z).amendment.getD .none) new a weights additions) ∧
              (∀ y, y ≠ z → t.zone y = s.zone y) ∧ t.ramps = s.ramps ∧ t.heads = s.heads ∧ t.chans = s.chans ∧
              Answered s t l 0x21 .done [] ∧ NoNotice s t l ∧ RestSame s t)))

/-- ZONE DISSOLVE: the three checks of R85 in their order, each with its refusal, and the dissolution (R82, R85, R93). Rests
on the model's log 19. -/
def Obligations.ZoneDissolved : Prop :=
  ∀ (s : State) (l : Link) (zone : Byte), s.takes l →
    FirstRefusal (.zoneDissolve l zone) s l 0x22 [(zoneArg zone ≠ none, .range)] (∀ z, zoneArg zone = some z →
      FirstRefusal (.zoneDissolve l zone) s l 0x22
      [((s.zone z).state ≠ .vacant, .absent), (∀ k, k ≠ l → (s.zone z).owner ≠ some k, .authority)]
      (∃ t, exec (.zoneDissolve l zone) s = .next t ∧ t.zone z = Zone.vacantRecord ∧
        (∀ y, y ≠ z → t.zone y = s.zone y) ∧
        (∀ n, t.ramp n = { s.ramp n with joined := (s.ramp n).joined.filter fun y => decide (y ≠ z) }) ∧
        (∀ c, (t.chan c).refs = (s.chan c).refs.filter fun p => decide (p.1 ≠ .zone z)) ∧ t.heads = s.heads ∧
        t.bulletin = s.bulletin ∧ Raised t .zone z.val (.zoneChanged .vacant 0 false .dissolved) false ∧
        Answered s t l 0x22 .done [] ∧ RestSame s t))

/-- R91: the share list of an evaluated zone: a pair for each eligible member in member-list order, each share its floor and
one veh/h of the remainder from the head of the list, summing to R; with R above 0 and no member eligible the list is empty
and unable is set, and in every other case unable is clear. -/
def Obligations.SharesSumToReduction : Prop :=
  ∀ (z : Zone) (sum : Summary) (ramps : RampNo → Ramp) (oz : Nat), sum.meanOccupancy z.detectors = some oz →
    (∀ m ∈ z.members, 1 ≤ m.2) →
    let e := z.evaluate sum ramps
    let eligible := z.members.filter fun m => (ramps m.1).eligible
    let total := (eligible.map (·.2)).sum
    let remainder := e.zone.r - (eligible.map fun m => e.zone.r * m.2 / total).sum
    e.shares.map (·.1) = eligible.map (·.1) ∧
    (eligible ≠ [] → (e.shares.map (·.2)).sum = e.zone.r ∧ remainder < eligible.length ∧
      ∀ i (h : i < eligible.length) (h' : i < e.shares.length),
        e.shares[i].2 = e.zone.r * eligible[i].2 / total + if i < remainder then 1 else 0) ∧
    (0 < e.zone.r → eligible = [] → e.shares = [] ∧ e.zone.unable = true) ∧
    (e.zone.r = 0 ∨ eligible ≠ [] → e.zone.unable = false)

/-- An evaluation: DEGRADED with R 0 when no detector entry is VALID; otherwise R moves by the truncated gain term within 0
to Rmax, the state follows R, and unable is set exactly when R is above 0 and no member is METERING without an override (R88
to R91). -/
def Obligations.ZoneEvaluates : Prop :=
  ∀ (z : Zone) (sum : Summary) (ramps : RampNo → Ramp),
    (sum.meanOccupancy z.detectors = none →
      z.evaluate sum ramps = ⟨{ z with
        state := .degraded, r := 0, unable := false, oz := none, lastEval := some sum.number }, []⟩) ∧
    (∀ oz, sum.meanOccupancy z.detectors = some oz →
      (z.evaluate sum ramps).zone.oz = some oz ∧ (z.evaluate sum ramps).zone.lastEval = some sum.number ∧
      ((z.evaluate sum ramps).zone.r : Int) =
        max 0 (min (z.rmax : Int) (z.r + ((z.gz : Int) * ((oz : Int) - z.oc)).tdiv 16)) ∧
      ((z.evaluate sum ramps).zone.state = .restricting ↔ 0 < (z.evaluate sum ramps).zone.r) ∧
      ((z.evaluate sum ramps).zone.state = .idle ↔ (z.evaluate sum ramps).zone.r = 0) ∧
      ((z.evaluate sum ramps).zone.unable = true ↔ 0 < (z.evaluate sum ramps).zone.r ∧
        ∀ m ∈ z.members, ¬ ((ramps m.1).state = .metering ∧ (ramps m.1).override = none)) ∧
      (z.evaluate sum ramps).zone.members = z.members)

/-! ### Corridor settings -/

/-- CORRIDOR SET: the settings held pending, the supervision times installed at once, a SUPERVISED other link whose timer
stands at or above its new time lapsed with all that R131 takes from it; RANGE and nothing changed when a value is out of
range; what the ranges are and what settings the command carries (R58, R143, R133). -/
def Obligations.CorridorSetTaken : Prop :=
  (∀ (a : CorridorArgs) (set : Settings), settingsArg a = some set ↔ SettingsCarried a set) ∧
  ∀ (s : State) (l : Link) (a : CorridorArgs), s.takes l →
    (∀ set, settingsArg a = some set →
      ∃ t, exec (.corridorSet l a) s = .next t ∧ t.pendSettings = some set ∧ t.settings = s.settings ∧
        t.loc.supTime = a.localTime.toNat ∧ t.centre.supTime = a.centreTime.toNat ∧
        (t.link l).supervised = true ∧ (t.link l).supTimer = 0 ∧ (t.link l).linkState = .replying ∧
        (t.link l).response.map (·.status) = some .done ∧
        (∀ k, k ≠ l →
          let time := if k = .loc then a.localTime.toNat else a.centreTime.toNat
          let lapses := (s.link k).supervised = true ∧ 0 < time ∧ time ≤ (s.link k).supTimer
          (lapses → (t.link k).supervised = false ∧ (t.link k).supTimer = 0 ∧
            (∀ n, t.ramp n = { s.ramp n with
              authority := if (s.ramp n).authority = some k then none else (s.ramp n).authority
              override := match (s.ramp n).override with
                | none => none
                | some o => if o.setBy = k then none else some o }) ∧
            (∀ z, t.zone z = { s.zone z with owner := if (s.zone z).owner = some k then none else (s.zone z).owner }) ∧
            Raised t .supervision (linkIndex k) .none true) ∧
          (¬ lapses → (t.link k).supervised = (s.link k).supervised ∧ (t.link k).supTimer = (s.link k).supTimer ∧
            t.ramps = s.ramps ∧ t.zones = s.zones)) ∧
        t.chans = s.chans ∧ t.heads = s.heads ∧ t.slots = s.slots ∧ t.stage = s.stage ∧ t.elapsed = s.elapsed) ∧
    (settingsArg a = none → ∃ t, exec (.corridorSet l a) s = .next t ∧ Refused s t l 0x30 .range)

/-! ### The plan store -/

/-- STAGE WRITE, STAGE CLEAR and STAGE FROM RAMP, each in its order of checks: a section above 3 and a ramp above 15 are
RANGE before BUSY (R156). STAGE FROM RAMP writes the installed plan as the plan image table lays it out, byte by byte:
settled values at their offsets, 0xFF for an absent channel, as for the lanes above L, 0 for a byte with no field (R148).
Rests on the model's log 48. -/
def Obligations.StageCommandsTaken : Prop :=
  (∀ (s : State) (l : Link) (sect ramp : Byte) (bytes : Table Byte 16), s.takes l →
    (3 < sect.toNat → ∃ t, exec (.stageWrite l sect bytes) s = .next t ∧ Refused s t l 0x40 .range) ∧
    (15 < ramp.toNat → ∃ t, exec (.stageFromRamp l ramp) s = .next t ∧ Refused s t l 0x42 .range)) ∧
  ∀ (s : State) (l : Link) (sect unused ramp : Byte) (bytes : Table Byte 16) (j : Fin 4) (n : RampNo),
    s.takes l → sect.toNat = j.val → rampArg ramp = some n →
    (s.store = none → s.scan.running = false →
      (s.stage.get j = none →
        ∃ t, exec (.stageWrite l sect bytes) s = .next t ∧ t = { s with
          stage := s.stage.set j (some bytes), loc := t.loc, centre := t.centre } ∧
          Answered s t l 0x40 .done [] ∧ NoNotice s t l) ∧
      (s.stage.get j ≠ none → ∃ t, exec (.stageWrite l sect bytes) s = .next t ∧ Refused s t l 0x40 .staged) ∧
      (∃ t, exec (.stageClear l unused) s = .next t ∧ t = { s with
          stage := Table.fill 4 none, loc := t.loc, centre := t.centre } ∧
        Answered s t l 0x41 .done [] ∧ NoNotice s t l) ∧
      (∀ p, (s.ramp n).state ≠ .vacant → (s.ramp n).plan = some p →
        ∃ t, exec (.stageFromRamp l ramp) s = .next t ∧ t = { s with
            stage := t.stage, loc := t.loc, centre := t.centre } ∧
          (∀ i, t.stage.get i = some (p.sections.get i) ∧
            (p.sections.get i).cells = ((imageOf p).drop (16 * i.val)).take 16) ∧
          Answered s t l 0x42 .done [] ∧ NoNotice s t l) ∧
      ((s.ramp n).state = .vacant → ∃ t, exec (.stageFromRamp l ramp) s = .next t ∧ Refused s t l 0x42 .absent)) ∧
    (s.store ≠ none ∨ s.scan.running = true →
      (∃ t, exec (.stageWrite l sect bytes) s = .next t ∧ Refused s t l 0x40 .busy) ∧
      (∃ t, exec (.stageClear l unused) s = .next t ∧ Refused s t l 0x41 .busy) ∧
      (∃ t, exec (.stageFromRamp l ramp) s = .next t ∧ Refused s t l 0x42 .busy))

/-- STORE, ERASE and FETCH of a slot, each in its order of checks: a slot above 23 is RANGE before BUSY (R157 to R159).
Rests on the model's logs 12, 13. -/
def Obligations.SlotCommandsTaken : Prop :=
  (∀ (s : State) (l : Link) (slot : Byte), s.takes l → 23 < slot.toNat →
    (∃ t, exec (.storeSlot l slot) s = .next t ∧ Refused s t l 0x43 .range) ∧
    (∃ t, exec (.eraseSlot l slot) s = .next t ∧ Refused s t l 0x45 .range) ∧
    (∃ t, exec (.fetchSlot l slot) s = .next t ∧ Refused s t l 0x44 .range)) ∧
  ∀ (s : State) (l : Link) (slot : Byte) (k : SlotNo), s.takes l → slotArg slot = some k →
    (s.store = none → s.scan.running = false →
      (stageImage s.stage = none → ∃ t, exec (.storeSlot l slot) s = .next t ∧ Refused s t l 0x43 .incomplete) ∧
      (∀ img, stageImage s.stage = some img →
        ((s.slot k).guarded = true → ∃ t, exec (.storeSlot l slot) s = .next t ∧ Refused s t l 0x43 .guarded) ∧
        ((s.slot k).guarded = false →
          ∃ t, exec (.storeSlot l slot) s = .next t ∧ t = { s with
              slots := s.slots.set k { s.slot k with state := .damaged, agrees := false }
              store := some ⟨.store, k, img⟩, loc := t.loc, centre := t.centre } ∧
            Answered s t l 0x43 .accepted [] ∧ NoNotice s t l)) ∧
      ((s.slot k).guarded = true → ∃ t, exec (.eraseSlot l slot) s = .next t ∧ Refused s t l 0x45 .guarded) ∧
      ((s.slot k).guarded = false →
        ∃ t, exec (.eraseSlot l slot) s = .next t ∧ t = { s with
            slots := s.slots.set k { s.slot k with state := .damaged, agrees := false }
            store := some ⟨.erase, k, Table.fill 64 0⟩, loc := t.loc, centre := t.centre } ∧
          Answered s t l 0x45 .accepted [] ∧ NoNotice s t l) ∧
      ((s.slot k).state = .empty → ∃ t, exec (.fetchSlot l slot) s = .next t ∧ Refused s t l 0x44 .absent) ∧
      ((s.slot k).state = .damaged → ∃ t, exec (.fetchSlot l slot) s = .next t ∧ Refused s t l 0x44 .damaged) ∧
      ((s.slot k).state = .valid → (s.slot k).agrees = true →
        ∃ t, exec (.fetchSlot l slot) s = .next t ∧ t = { s with
            stage := t.stage, loc := t.loc, centre := t.centre } ∧
          stageImage t.stage = some (s.slot k).image ∧ Answered s t l 0x44 .done [] ∧ NoNotice s t l) ∧
      ((s.slot k).state = .valid → (s.slot k).agrees = false →
        ∃ t, exec (.fetchSlot l slot) s = .next t ∧ t = { s with
            slots := s.slots.set k { s.slot k with state := .damaged }, loc := t.loc, centre := t.centre } ∧
          Answered s t l 0x44 .damaged [])) ∧
    (s.store ≠ none ∨ s.scan.running = true →
      (∃ t, exec (.storeSlot l slot) s = .next t ∧ Refused s t l 0x43 .busy) ∧
      (∃ t, exec (.eraseSlot l slot) s = .next t ∧ Refused s t l 0x45 .busy) ∧
      (∃ t, exec (.fetchSlot l slot) s = .next t ∧ Refused s t l 0x44 .busy))

/-- STORE COMPLETION: VALID with the image written, EMPTY, or DAMAGED still; store-busy none and the STORE notice; a scan
that waited begins (R158, R159). Rests on the model's logs 7, 12, 13. -/
def Obligations.StoreCompletes : Prop :=
  ∀ (s : State) (b : StoreBusy) (good : Bool), s.resetHeld = false → s.store = some b →
    ∃ t, exec (.storeCompletion good) s = .next t ∧ t.store = none ∧
      (good = true → b.op = .store →
        t.slot b.slot = { s.slot b.slot with image := b.image, agrees := true, state := .valid }) ∧
      (good = true → b.op = .erase → (t.slot b.slot).state = .empty) ∧
      (good = false → t.slot b.slot = s.slot b.slot) ∧ (t.slot b.slot).guarded = (s.slot b.slot).guarded ∧
      (∀ j, j ≠ b.slot → t.slot j = s.slot j) ∧
      Raised t .store b.slot.val
        (.store b.op good (if b.op = .store then some (b.image.get 0) else none)) false ∧
      (s.scan = .afterStore → t.scan = .at 0 ∧ ∀ k, t.report.get k = none) ∧
      (s.scan ≠ .afterStore → t.scan = s.scan ∧ t.report = s.report) ∧
      t.stage = s.stage ∧ t.ramps = s.ramps ∧ t.heads = s.heads ∧ t.chans = s.chans ∧ t.zones = s.zones ∧
      SetsOnly s t

/-- R160: PROTECT and UNPROTECT with their checks, the refusal of STORE and ERASE in a protected slot, and the protected
marks kept through both resets. -/
def Obligations.ProtectionTaken : Prop :=
  (∀ (s : State) (l : Link) (slot : Byte), s.takes l →
    (slotArg slot = none →
      (∃ t, exec (.protectSlot l slot) s = .next t ∧ Refused s t l 0x46 .range) ∧
      (∃ t, exec (.unprotectSlot l slot) s = .next t ∧ Refused s t l 0x47 .range)) ∧
    (∀ k, slotArg slot = some k →
      ((∀ b, s.store = some b → b.slot ≠ k) → s.scan.running = false →
        (∃ t, exec (.protectSlot l slot) s = .next t ∧ t = { s with
            slots := s.slots.set k { s.slot k with guarded := true }, loc := t.loc, centre := t.centre } ∧
          Answered s t l 0x46 .done [] ∧ NoNotice s t l) ∧
        (l = .loc → s.takeover = true →
          ∃ t, exec (.unprotectSlot l slot) s = .next t ∧ t = { s with
              slots := s.slots.set k { s.slot k with guarded := false }, loc := t.loc, centre := t.centre } ∧
            Answered s t l 0x47 .done [] ∧ NoNotice s t l) ∧
        (l = .centre ∨ s.takeover = false →
          ∃ t, exec (.unprotectSlot l slot) s = .next t ∧ Refused s t l 0x47 .guarded)) ∧
      ((∃ b, s.store = some b ∧ b.slot = k) ∨ s.scan.running = true →
        (∃ t, exec (.protectSlot l slot) s = .next t ∧ Refused s t l 0x46 .busy) ∧
        (∃ t, exec (.unprotectSlot l slot) s = .next t ∧ Refused s t l 0x47 .busy)) ∧
      (s.store = none → s.scan.running = false → (s.slot k).guarded = true →
        (∀ img, stageImage s.stage = some img →
          ∃ t, exec (.storeSlot l slot) s = .next t ∧ Refused s t l 0x43 .guarded) ∧
        (∃ t, exec (.eraseSlot l slot) s = .next t ∧ Refused s t l 0x45 .guarded)))) ∧
  (∀ s : State, s.resetHeld = false → ∃ t, exec .hardReset s = .next t ∧ ∀ k, (t.slot k).guarded = (s.slot k).guarded) ∧
  (∀ s : State, s.resetHeld = false → (s.link .loc).linkState = .replying → s.restartPending = true →
    ∃ t, exec (.responseSent .loc) s = .next t ∧ ∀ k, (t.slot k).guarded = (s.slot k).guarded)

/-- RESTORE SCAN SLOT: each row of R161's table writes its outcome; an installation claims the plan's references and sets
the start rate, as R13 and R14 give; after slot 23 the scan ends with the RESTORE notice, which carries the count of each
outcome in the order of the table (R157, R161). Rests on the model's logs 7, 12, 44, 48, 53. -/
def Obligations.RestoreScanTaken : Prop :=
  (∀ report : Table (Option ReportEntry) 24, outcomeCounts report =
    [ScanOutcome.empty, .damaged, .notAuto, .skippedDuplicate, .skippedConflict, .restored, .opened].map fun o =>
      (List.finRange 24).countP fun k => decide ((report.get k).map (·.outcome) = some o)) ∧
  ∀ (s : State) (k : SlotNo), s.resetHeld = false → s.scan = .at k →
    ∃ t, exec .restoreScanSlot s = .next t ∧
      (∀ j, j ≠ k → t.report.get j = s.report.get j) ∧
      (∀ j : SlotNo, j.val = k.val + 1 → t.scan = .at j) ∧
      (k.val = 23 → t.scan = .idle ∧ Raised t .restore 0 (.restore (outcomeCounts t.report)) false) ∧
      ((s.slot k).state = .empty → t.report.get k = some ⟨.empty, none⟩ ∧ t.ramps = s.ramps) ∧
      ((s.slot k).state = .damaged ∨ (s.slot k).state = .valid ∧ (s.slot k).agrees = false →
        t.report.get k = some ⟨.damaged, none⟩ ∧ (t.slot k).state = .damaged ∧ t.ramps = s.ramps) ∧
      ((s.slot k).state = .valid → (s.slot k).agrees = true →
        t.slots = s.slots ∧
        (byteAt (s.slot k).image 3 / 2 % 2 = 0 →
          t.report.get k = some ⟨.notAuto, some ((s.slot k).image.get 0)⟩ ∧ t.ramps = s.ramps) ∧
        (byteAt (s.slot k).image 3 / 2 % 2 = 1 →
          (rampArg ((s.slot k).image.get 0) = none →
            t.report.get k = some ⟨.skippedConflict, some ((s.slot k).image.get 0)⟩ ∧ t.ramps = s.ramps) ∧
          (∀ n, rampArg ((s.slot k).image.get 0) = some n →
            ((s.ramp n).state ≠ .vacant →
              t.report.get k = some ⟨.skippedDuplicate, some ((s.slot k).image.get 0)⟩ ∧ t.ramps = s.ramps) ∧
            ((s.ramp n).state = .vacant →
              (structureOk n (s.slot k).image = false ∨
                  s.conflicts n (settlePlan n (s.slot k).image).plan.layout.claims = true →
                t.report.get k = some ⟨.skippedConflict, some ((s.slot k).image.get 0)⟩ ∧ t.ramps = s.ramps) ∧
              (structureOk n (s.slot k).image = true →
                s.conflicts n (settlePlan n (s.slot k).image).plan.layout.claims = false →
                let set := settlePlan n (s.slot k).image
                (t.ramp n).plan = some set.plan ∧ (t.ramp n).effMax = some set.effMax ∧ (t.ramp n).trimmed = set.marks ∧
                (t.ramp n).stopped = some .restored ∧ (t.ramp n).authority = none ∧ (t.ramp n).override = none ∧
                (t.ramp n).amendment = none ∧ (t.ramp n).retirePending = false ∧ (t.ramp n).hold = true ∧
                (t.ramp n).q = 0 ∧ (t.ramp n).contOn = 0 ∧ (t.ramp n).contOff = 0 ∧ (t.ramp n).joined = [] ∧
                (t.ramp n).applied = set.plan.control.startRate ∧ (t.ramp n).computed = set.plan.control.startRate ∧
                (t.ramp n).limiting = some .start ∧ (t.ramp n).intervals = set.plan.intervals set.plan.control.startRate ∧
                (t.ramp n).lastUpdate = none ∧
                (∀ c, (t.chan c).refs = (s.chan c).refs ++
                  (set.plan.layout.claims.filter fun x => decide (x.1 = c)).map fun x => (.ramp n, x.2)) ∧
                (∀ m, m ≠ n → t.ramp m = s.ramp m) ∧ (∀ h, headRamp h ≠ n → t.head h = s.head h) ∧
                (∀ j, (t.head (headOf n j)).demandOn = false ∧ (t.head (headOf n j)).demandHealth = none) ∧
                (set.plan.layout.autoOpen = true → s.permit = true →
                  (t.ramp n).state = .opening ∧
                    (t.ramp n).sub = some (if set.plan.timing.warn = 0 then .startRed else .warn) ∧
                    (∀ j ∈ set.plan.laneList, (t.head (headOf n j)).aspect =
                      if set.plan.timing.warn = 0 then .red else .dark) ∧
                    t.report.get k = some ⟨.opened, some ((s.slot k).image.get 0)⟩) ∧
                (set.plan.layout.autoOpen = false ∨ s.permit = false →
                  (t.ramp n).state = .parked ∧ (t.ramp n).sub = none ∧ (∀ j, (t.head (headOf n j)).aspect = .dark) ∧
                    t.report.get k = some ⟨.restored, some ((s.slot k).image.get 0)⟩)))))) ∧
      t.stage = s.stage ∧ t.store = s.store ∧ t.zones = s.zones ∧ SetsOnly s t

/-! ### LOOKUP -/

/-- LOOKUP of each group: RANGE for an index out of the group's range, otherwise DONE with the fields as they stand, and no
record changed (R2, R59, R94, R142, R157, R162). The bytes of each group are given first, field by field, with the positions
by which enumerations are sent (R142) and the image of a plan (R148). A LOOKUP of its own link shows it EXECUTING. Rests on
the model's logs 9, 11, 34, 35, 36, 41, 45, 48, 49, 50, 51, 52, 56. -/
def Obligations.LookupsAnswered : Prop :=
  (∀ s : State, LookupForms s) ∧ ListPositions ∧ (∀ p : Plan, p.image.cells = imageOf p) ∧
  (∀ c : LinkCtx, c.bytes = [byteOf c.linkState.pos, byteOf c.rx.pos, Config.markByte c.overrun, firstOf c.supervised] ++
    twoBytes c.supTime ++ twoBytes c.supTimer) ∧
  ∀ (s : State) (l : Link) (index : Byte), s.takes l →
    (∀ c ∈ [(Instr.lookupRampStatus l index, (rampArg index).map s.rampStatus),
        (.lookupRampPlan l index, (rampArg index).map fun n => (s.ramp n).planBytes),
        (.lookupChannel l index, (chanArg index).map s.channelBytes),
        (.lookupChannelSummary l index, (chanArg index).map s.channelSummary),
        (.lookupZone l index, (zoneArg index).map fun z => (s.zone z).bytes),
        (.lookupBulletinEntry l index, (zoneArg index).map s.bulletinBytes),
        (.lookupSlotDirectory l index, some s.directoryBytes),
        (.lookupCorridorSettings l index, some s.settingsBytes),
        (.lookupRestoreReport l index, some s.reportListing),
        (.lookupLinkStatus l index, (linkArg index).map fun k =>
          (if k = l then { s.link k with
            linkState := .executing, rx := .absent, supervised := true, supTimer := 0 } else s.link k).bytes)],
      (∀ bytes, c.2 = some bytes →
        ∃ t, exec c.1 s = .next t ∧ Answered s t l 0x10 .done bytes ∧ NoNotice s t l ∧ OnlyLinks s t) ∧
      (c.2 = none → ∃ t, exec c.1 s = .next t ∧ Refused s t l 0x10 .range))

/-! ### Notices -/

/-- R153: NOTICE CLEAR removes the record of one kind and subject, or with ALL every record, from the sending link's pending
set alone; a kind or a subject out of range is RANGE. -/
def Obligations.NoticesCleared : Prop :=
  ∀ (s : State) (l : Link) (kind subject unused : Byte), s.takes l →
    (∀ k, kindArg kind = some k → subject.toNat < k.subjects →
      ∃ t, exec (.noticeClear l kind subject) s = .next t ∧
        (t.link l).set = (s.setAfterFrame l l).filter
          (fun n => decide (¬(n.kind = k ∧ n.subject = subject.toNat))) ∧
        (∀ j, j ≠ l → (t.link j).set = s.setAfterFrame l j) ∧ Answered s t l 0x51 .done [] ∧ OnlyLinks s t) ∧
    ((∃ k, kindArg kind = some k ∧ k.subjects ≤ subject.toNat) ∨ kindArg kind = none ∧ kind ≠ 0xFF →
      ∃ t, exec (.noticeClear l kind subject) s = .next t ∧ Refused s t l 0x51 .range) ∧
    (∃ t, exec (.noticeClearAll l unused) s = .next t ∧ (t.link l).set = [] ∧
      (∀ k, k ≠ l → (t.link k).set = s.setAfterFrame l k) ∧ Answered s t l 0x51 .done [] ∧ OnlyLinks s t)

/-- NOTICE QUERY gives the count of the sending link's unmasked records and, of these, the one of lowest priority number and
then of lowest subject, with the fields of its detail, and changes none (R145, R152; of a transition to PARKED the cause is
sent as the stopped cause, R19, R39, and of any other as a free value; that the state and cause of R39 stand before the
fields of R33 and R106, and that the counts of a RESTORE have no count byte, are the model's choices); NOTICE MASK unmasks
exactly the kinds listed, for the sending link alone, and more than 11 kinds or a kind outside 1 to 11 is RANGE (R151). The
NOTICE line is asserted while the local link's set holds a record of a kind unmasked for it and RESET is not low: a NOTICE
MASK or a NOTICE CLEAR on the local link moves it, a NOTICE QUERY and the same commands on the centre link leave it (R154).
Rests on the model's logs 9, 10, 11, 31, 47, 51. -/
def Obligations.NoticesQueriedAndMasked : Prop :=
  (∀ s : State, s.noticeLine = true ↔ s.resetHeld = false ∧ ∃ r ∈ s.loc.set, s.loc.shows r.kind = true) ∧
  (∀ c : LinkCtx, noticesOrdered c.set →
    let count := (c.set.filter fun r => c.shows r.kind).length
    (count = 0 → c.queryBytes = [0]) ∧
    (count ≠ 0 → ∃ n ∈ c.set, c.shows n.kind = true ∧
      (∀ m ∈ c.set, c.shows m.kind = true →
        n.kind.priority < m.kind.priority ∨ n.kind = m.kind ∧ n.subject ≤ m.subject) ∧
      c.queryBytes = [BitVec.ofNat 8 count, BitVec.ofNat 8 n.kind.priority, BitVec.ofNat 8 n.subject,
        Config.markByte n.latched, Config.markByte n.live, BitVec.ofNat 8 n.detail.bytes.length] ++ n.detail.bytes)) ∧
  (∀ (r : RampState) (cause : RampCause) (h : HeadNo) (f : FaultClass) (a : Aspect) (c : Option Chan) (x y z : Nat)
      (counts : List Nat),
    (Detail.lockout r cause h f).bytes =
      [BitVec.ofNat 8 r.pos, Config.rampCauseByte cause, BitVec.ofNat 8 h.val, BitVec.ofNat 8 f.pos] ∧
    (Detail.flush r cause c x y z).bytes =
      [BitVec.ofNat 8 r.pos, Config.rampCauseByte cause, (c.map fun i => BitVec.ofNat 8 i.val).getD 0xFF, BitVec.ofNat 8 x,
        BitVec.ofNat 8 y, BitVec.ofNat 8 z] ∧
    (r ≠ .parked → (Detail.rampState r cause).bytes = [BitVec.ofNat 8 r.pos, Config.rampCauseByte cause]) ∧
    (∀ x ∈ [(RampCause.commission, (0 : Byte)), (.close, 0), (.clearLockout, 0), (.permitLost, 1), (.closingEnded, 2)],
      (Detail.rampState .parked x.1).bytes = [1, x.2]) ∧
    (Detail.lamp f a r).bytes = [BitVec.ofNat 8 f.pos, BitVec.ofNat 8 a.pos, BitVec.ofNat 8 r.pos] ∧
    (Detail.sync x).bytes = [BitVec.ofNat 8 (x / 256), BitVec.ofNat 8 x] ∧ Detail.none.bytes = [] ∧
    (Detail.restore counts).bytes = counts.map fun i => BitVec.ofNat 8 i) ∧
  (∀ (st : ZoneState) (r w : Nat) (unable done : Bool) (zc : ZoneCause) (dc : DetectorCause) (faults : FaultSet)
      (op : StoreOp) (bound : Option Byte),
    (Detail.zoneEvaluated st r unable w).bytes =
      [BitVec.ofNat 8 st.pos, BitVec.ofNat 8 (r / 256), BitVec.ofNat 8 r, if unable then 0 else 1, BitVec.ofNat 8 (w / 256),
        BitVec.ofNat 8 w] ∧
    (Detail.zoneChanged st r unable zc).bytes =
      [BitVec.ofNat 8 st.pos, BitVec.ofNat 8 (r / 256), BitVec.ofNat 8 r, if unable then 0 else 1, Config.zoneCauseByte zc] ∧
    (Detail.detector dc).bytes = [Config.detectorCauseByte dc] ∧
    (Detail.detectorFailed faults).bytes =
      BitVec.ofNat 8 faults.positions.length :: faults.positions.map (fun i => BitVec.ofNat 8 i) ∧
    (Detail.store op done bound).bytes = [BitVec.ofNat 8 op.pos, if done then 0 else 1] ++ bound.toList) ∧
  (∀ (s : State) (kind subject unused : Byte) (kinds : List Byte) (k : NoticeKind) (ks : List NoticeKind), s.takes .loc →
    kindArg kind = some k → subject.toNat < k.subjects → allArgs kindArg kinds = some ks → ks.length ≤ 11 →
    (∃ t, exec (.noticeMask .loc kinds) s = .next t ∧ (t.noticeLine = true ↔ ∃ r ∈ s.loc.set, r.kind ∈ ks)) ∧
    (∃ t, exec (.noticeClear .loc kind subject) s = .next t ∧ (t.noticeLine = true ↔
      ∃ r ∈ s.loc.set, s.loc.shows r.kind = true ∧ ¬ (r.kind = k ∧ r.subject = subject.toNat))) ∧
    (∃ t, exec (.noticeClearAll .loc unused) s = .next t ∧ t.noticeLine = false)) ∧
  (∀ (s : State) (l : Link) (kind subject unused : Byte) (kinds : List Byte), s.takes l →
    ∀ c ∈ [Instr.noticeQuery l unused, .noticeMask .centre kinds, .noticeClear .centre kind subject,
        .noticeClearAll .centre unused], (c = .noticeQuery l unused ∨ l = .centre) →
      ∃ t, exec c s = .next t ∧ t.noticeLine = s.noticeLine) ∧
  ∀ (s : State) (l : Link) (unused : Byte) (kinds : List Byte), s.takes l →
    (∃ t, exec (.noticeQuery l unused) s = .next t ∧
      Answered s t l 0x50 .done
        { s.link l with set := s.setAfterFrame l l }.queryBytes ∧ NoNotice s t l ∧ OnlyLinks s t) ∧
    (∀ ks, allArgs kindArg kinds = some ks → ks.length ≤ 11 →
      ∃ t, exec (.noticeMask l kinds) s = .next t ∧ (∀ k : NoticeKind, (t.link l).shows k = true ↔ k ∈ ks) ∧
        (∀ j, j ≠ l → (t.link j).unmasked = (s.link j).unmasked) ∧
        (t.link l).linkState = .replying ∧
        (t.link l).response = some
          ⟨.done, ⟨(t.link l).noticePending, (s.link l).overrun, true, s.takeover, s.permit⟩, 0x52, []⟩ ∧
        NoNotice s t l ∧ OnlyLinks s t) ∧
    ((allArgs kindArg kinds = none ∨ 11 < kinds.length) →
      ∃ t, exec (.noticeMask l kinds) s = .next t ∧ Refused s t l 0x52 .range)

/-! ### Links -/

/-- RESTART is answered DONE on the local link and LINK on the centre link; an unknown or misshapen command FORMAT; a frame
whose check fails CHECK with the supervision left alone; a frame completed on a busy link is dropped with the overrun flag
set; a gap drops the receive frame (R135 to R139, R146). Rests on the model's logs 6, 21, 27. -/
def Obligations.LinkEventsTaken : Prop :=
  ∀ (s : State) (l : Link) (b : Byte),
    (s.takes .loc → ∃ t, exec (.restart .loc b) s = .next t ∧ t.restartPending = true ∧
      Answered s t .loc 0x3F .done [] ∧ NoNotice s t .loc ∧ t.ramps = s.ramps ∧ t.heads = s.heads ∧
      t.chans = s.chans ∧ t.zones = s.zones ∧ t.slots = s.slots ∧ t.stage = s.stage) ∧
    (s.takes .centre → ∃ t, exec (.restart .centre b) s = .next t ∧ Refused s t .centre 0x3F .link) ∧
    (s.takes l → ∃ t, exec (.unknownCommand l b) s = .next t ∧ Refused s t l b .format) ∧
    (s.takes l → ∃ t, exec (.frameCheckFailure l b) s = .next t ∧ OnlyLinks s t ∧
      (∀ k, k ≠ l → t.link k = s.link k) ∧
      t.link l = { s.link l with
        linkState := .replying, rx := .absent, gap := 0, overrun := false
        response := some ⟨.check,
          ⟨(s.link l).noticePending, (s.link l).overrun, (s.link l).supervised, s.takeover, s.permit⟩, b, []⟩ }) ∧
    (s.resetHeld = false → (s.link l).busy = true →
      ∃ t, exec (.frameOverrun l) s = .next t ∧
        t.link l = { s.link l with rx := .absent, gap := 0, overrun := true } ∧
        (∀ k, k ≠ l → t.link k = s.link k) ∧ OnlyLinks s t) ∧
    (s.resetHeld = false → (s.link l).rx ≠ .absent → 2 ≤ (s.link l).gap →
      ∃ t, exec (.receiveGapTimeout l) s = .next t ∧
        t.link l = { s.link l with
          rx := .absent, gap := 0
          linkState := if (s.link l).linkState = .receiving then .idle else (s.link l).linkState } ∧
        (∀ k, k ≠ l → t.link k = s.link k) ∧ OnlyLinks s t)

/-- BYTE RECEIVED by the receive frame, short of the byte that completes the check (R135); and that byte: the overrun on a
busy link, CHECK when the check fails, otherwise the command that the payload spells, FORMAT when it spells none and RANGE
for a LOOKUP of a group outside 1 to 10 (R136 to R138, R142). Rests on the model's logs 6, 21. -/
def Obligations.BytesTaken : Prop :=
  ∀ (s : State) (l : Link) (b : Byte), s.resetHeld = false →
    ((s.link l).rx = .absent → b = 0xC3 →
      ∃ t, exec (.byteReceived l b) s = .next t ∧
        t.link l = { s.link l with
          rx := .assembling [], gap := 0
          linkState := if (s.link l).linkState = .idle then .receiving else (s.link l).linkState } ∧
        (∀ k, k ≠ l → t.link k = s.link k) ∧ OnlyLinks s t) ∧
    ((s.link l).rx = .absent → b ≠ 0xC3 →
      ∃ t, exec (.byteReceived l b) s = .next t ∧ t.link l = { s.link l with gap := 0 } ∧
        (∀ k, k ≠ l → t.link k = s.link k) ∧ OnlyLinks s t) ∧
    ((s.link l).rx = .assembling [] → (s.link l).linkState ≠ .idle →
      ∃ t, exec (.byteReceived l b) s = .next t ∧
        t.link l = { s.link l with
          rx := if 2 ≤ b.toNat ∧ b.toNat ≤ 250 then .assembling [b] else .void
          gap := 0 } ∧
        (∀ k, k ≠ l → t.link k = s.link k) ∧ OnlyLinks s t) ∧
    (∀ len rest, (s.link l).rx = .assembling (len :: rest) → rest.length + 1 < len.toNat + 2 →
      (s.link l).linkState ≠ .idle →
      ∃ t, exec (.byteReceived l b) s = .next t ∧
        t.link l = { s.link l with rx := .assembling (len :: rest ++ [b]), gap := 0 } ∧
        (∀ k, k ≠ l → t.link k = s.link k) ∧ OnlyLinks s t) ∧
    ((s.link l).rx = .void → (s.link l).linkState ≠ .idle →
      ∃ t, exec (.byteReceived l b) s = .next t ∧ t.link l = { s.link l with gap := 0 } ∧
        (∀ k, k ≠ l → t.link k = s.link k) ∧ OnlyLinks s t) ∧
    (∀ len payload hi, (s.link l).rx = .assembling (len :: payload ++ [hi]) → payload.length = len.toNat →
      ((s.link l).busy = true →
        ∃ t, exec (.byteReceived l b) s = .next t ∧
          t.link l = { s.link l with rx := .absent, gap := 0, overrun := true } ∧
          (∀ k, k ≠ l → t.link k = s.link k) ∧ OnlyLinks s t) ∧
      ((s.link l).busy = false → crc16 (len :: payload) ≠ wordOf hi b →
        ∃ t, exec (.byteReceived l b) s = .next t ∧
          t.link l = { s.link l with
            linkState := .replying, rx := .absent, gap := 0, overrun := false
            response := some ⟨.check,
              ⟨(s.link l).noticePending, (s.link l).overrun, (s.link l).supervised, s.takeover, s.permit⟩,
              payload.headD 0, []⟩ } ∧
          (∀ k, k ≠ l → t.link k = s.link k) ∧ OnlyLinks s t) ∧
      ((s.link l).busy = false → crc16 (len :: payload) = wordOf hi b →
        (∀ i, decodePayload l payload = .command i → exec (.byteReceived l b) s = exec i s) ∧
        (decodePayload l payload = .badShape →
          ∃ t, exec (.byteReceived l b) s = .next t ∧ Refused s t l (payload.headD 0) .format) ∧
        (∀ g x, payload = [0x10, g, x] → g = 0 ∨ 10 < g.toNat →
          ∃ t, exec (.byteReceived l b) s = .next t ∧ Refused s t l 0x10 .range)))

/-! ### Detectors -/

/-- PRESENCE ONSET, QUALIFIED, END and STUCK ON: the channel record they leave on a sampled and on a DISABLED channel, for a
short pulse, a qualified presence and one in progress at a settling start, and the reports of a qualification and of the end
of a qualified presence by the sampling kind, with the releases that a demand on report brings and what their green starts
do to the record (R42, R44 to R47, R52, R53, R97 to R99, R101, R104, R105, R108, R112 to R115). Rests on the model's logs 5,
17, 18, 43. -/
def Obligations.PresencesTaken : Prop :=
  ∀ (s : State) (c : Chan) (k : Kind), s.resetHeld = false →
    ((s.chan c).pin = false → (s.chan c).sampling = none →
      ∃ t, exec (.presenceOnset c) s = .next t ∧
        t = { s with chans := s.chans.set c { s.chan c with pin := true, presence := true } }) ∧
    ((s.chan c).pin = false → (s.chan c).sampling = some k → (s.chan c).qualified = false →
      let u : State := { s with chans := s.chans.set c { s.chan c with
        pin := true, presence := true, contOn := 1, onTime := (s.chan c).onTime + 1, inProgress := false
        onsetNow := true } }
      (1 < (s.settings.of k).debounce → ∃ t, exec (.presenceOnset c) s = .next t ∧ t = u) ∧
      ((s.settings.of k).debounce ≤ 1 → exec (.presenceOnset c) s = exec (.presenceQualified c) u)) ∧
    ((s.chan c).sampling = some k → (s.chan c).presence = true → (s.chan c).qualified = false →
      (s.chan c).inProgress = false → (s.settings.of k).debounce ≤ (s.chan c).contOn →
      ∃ t, exec (.presenceQualified c) s = .next t ∧
        t.chan c = { s.chan c with qualified := true, counted := (s.chan c).counted + 1 } ∧
        (∀ x, x ≠ c → t.chan x = s.chan x) ∧ t.zones = s.zones ∧ RestSame s t ∧ SetsOnly s t ∧
        (k = .mainline → t.ramps = s.ramps ∧ t.heads = s.heads) ∧
        (k = .entry → t.heads = s.heads ∧ ∀ n, t.ramp n =
          if (s.ramp n).entryChan = some c ∧ (s.ramp n).hold = false then
            { s.ramp n with q := min ((s.ramp n).q + 1) (s.ramp n).capacity } else s.ramp n) ∧
        (k = .passage → t.heads = s.heads ∧
          (∀ n, (∀ j ∈ (s.ramp n).lanes, (s.ramp n).passageChan j ≠ some c) ∨ (s.ramp n).hold = true ∨
              (s.ramp n).heldHealth c ≠ .good → t.ramp n = s.ramp n) ∧
          (∀ n p, ∀ j ∈ (s.ramp n).lanes, (s.ramp n).plan = some p → (s.ramp n).passageChan j = some c →
            (∀ i, i ≠ j → (s.ramp n).passageChan i ≠ some c) → (s.ramp n).hold = false →
            (s.ramp n).heldHealth c = .good →
            let exits := (s.ramp n).state = .flushing ∧ p.queue.flushHold * 100 ≤ (s.ramp n).contOff ∧
              (s.ramp n).q - 1 ≤ p.queue.target
            (exits → t.ramp n = { s.ramp n with q := (s.ramp n).q - 1, state := .metering } ∧
              Raised t .rampState n.val (.rampState .metering .flushEnded) false ∧ NotLive t .flush n.val) ∧
            (¬ exits → t.ramp n = { s.ramp n with q := (s.ramp n).q - 1 }))) ∧
        (k = .queueEnd → t.heads = s.heads ∧ ∀ n, ((s.ramp n).queueEndChan = some c →
          t.ramp n = (s.ramp n).queueEndReported true) ∧ ((s.ramp n).queueEndChan ≠ some c → t.ramp n = s.ramp n)) ∧
        (k = .demand → ∃ u : State,
          (∀ h, (s.demandOf c h → u.head h = { s.head h with demandOn := true, demandOff := 0 }) ∧
            (¬ s.demandOf c h → u.head h = s.head h)) ∧
          (∀ n, u.ramp n = if (s.ramp n).callsOn c = true then { s.ramp n with emptyJudged := false } else s.ramp n) ∧
          (∀ h, (headLane h ∈ u.releasedBy c (headRamp h) → (t.head h).cycle = .green ∧ (t.head h).sinceStart = 0) ∧
            (headLane h ∉ u.releasedBy c (headRamp h) → t.head h = u.head h)) ∧
          (∀ n p, (s.ramp n).plan = some p → u.releasedBy c n ≠ [] → GreenStarted u t n p (u.releasedBy c n)) ∧
          (∀ n, u.releasedBy c n = [] → t.ramp n = u.ramp n))) ∧
    ((s.chan c).sampling = some k → (s.chan c).presence = true → (s.chan c).stuck = false →
      (s.settings.of k).maxOn * 100 ≤ (s.chan c).contOn →
      ∃ t, exec (.stuckOn c) s = .next t ∧
        t = { s with chans := s.chans.set c { s.chan c with
          stuck := true, faults := { (s.chan c).faults with stuckOn := true } } }) ∧
    ((s.chan c).pin = true →
      let ended : Channel := { s.chan c with
        pin := false, presence := false, contOn := 0, qualified := false, stuck := false, inProgress := false
        onsetNow := false }
      ((s.chan c).sampling = none →
        ∃ t, exec (.presenceEnd c) s = .next t ∧ t = { s with chans := s.chans.set c ended }) ∧
      ((s.chan c).sampling = some k →
        ((s.chan c).stuck = true ∨ (s.chan c).contOn < (s.settings.of k).maxOn * 100) →
        ((s.chan c).qualified = false → (s.chan c).inProgress = false → (s.chan c).contOn < (s.settings.of k).debounce →
          ∃ t, exec (.presenceEnd c) s = .next t ∧
            t = { s with chans := s.chans.set c { ended with
              shortPulses := (s.chan c).shortPulses + 1
              faults := if (s.settings.of k).chatter < (s.chan c).shortPulses + 1 then
                { (s.chan c).faults with chatter := true } else (s.chan c).faults } }) ∧
        ((s.chan c).qualified = false → (s.chan c).inProgress = true →
          ∃ t, exec (.presenceEnd c) s = .next t ∧ t = { s with chans := s.chans.set c ended }) ∧
        ((s.chan c).qualified = true →
          ∃ t, exec (.presenceEnd c) s = .next t ∧ t.chans = s.chans.set c ended ∧ t.zones = s.zones ∧ RestSame s t ∧
            (∀ l, t.link l = s.link l) ∧
            (k ≠ .queueEnd → t.ramps = s.ramps) ∧ (k ≠ .demand → t.heads = s.heads) ∧
            (k = .queueEnd → ∀ n, ((s.ramp n).queueEndChan = some c →
              t.ramp n = (s.ramp n).queueEndReported false) ∧
              ((s.ramp n).queueEndChan ≠ some c → t.ramp n = s.ramp n)) ∧
            (k = .demand → ∀ h,
              (s.demandOf c h → t.head h = { s.head h with demandOn := false, demandOff := 0, demandTimed := true }) ∧
              (¬ s.demandOf c h → t.head h = s.head h)))))

/-- The three window closes: each closes the window of its length exactly when its source and elapsed time say so (R48,
R49), leaving window n + 1 at elapsed time 0 under the settings that were pending, and handing summary n with bulletin n to
the RPC (R50, R58, R62); the entry of every channel record by R47 and R51's table, and every channel record as R42 and R50
leave it, with its DETECTOR notice (R57) and its health report (R46, R98, R100, R101, R108); every zone that is not VACANT
as its evaluation on summary n leaves it, its pending amendment applied first, with its entry in bulletin n, its new
members' joined lists and its ZONE notice (R84, R87 to R93), the ramps read as they stand once the readings are complete, by
which no more can have changed than the end of a flush. That such a row taken when the window is not due changes nothing,
and that the readings taken before the close are completed in it, are the model's choice. Rests on the model's logs 8, 15,
18, 33, 43. -/
def Obligations.WindowsClose : Prop :=
  (∀ (r : Channel) (set : Settings) (w : Nat), r.EnteredAs set w ((r.judged set).entry w)) ∧
  ∀ s : State, s.resetHeld = false →
    ∀ c ∈ [(Instr.windowTimerExpiry,
          decide (s.settings.source = .internal ∧ s.settings.length * 100 ≤ s.elapsed), s.settings.length * 100),
        (.syncEdge, decide (s.settings.source = .line ∧ 500 ≤ s.elapsed), min s.elapsed 9000),
        (.windowSelfClose, decide (s.settings.source = .line ∧ 9000 ≤ s.elapsed), 9000)],
      (c.2.1 = false → exec c.1 s = .next s) ∧
      (c.2.1 = true → ∃ t, exec c.1 s = .next t ∧ t.winNum = (s.winNum + 1) % 65536 ∧ t.elapsed = 0 ∧
        t.settings = s.pendSettings.getD s.settings ∧ t.pendSettings = none ∧
        t.lastClosed = some (s.winNum, c.2.2) ∧
        (∃ sum b, t.transit = s.transit ++ [(sum, b)] ∧ t.bulletin = some b ∧ sum.number = s.winNum ∧
          b.number = s.winNum ∧ sum.w = c.2.2 ∧
          (∀ x, sum.entries.get x = (((s.chan x).complete s.settings).judged s.settings).entry c.2.2 ∧
            (t.chan x).last = some (sum.entries.get x)) ∧
          ZonesEvaluated s t sum s.finishReadings.ramp b) ∧
        (∀ n, (s.finishReadings.ramp n).override = (s.ramp n).override ∧
          ((s.finishReadings.ramp n).state = (s.ramp n).state ∨
            (s.ramp n).state = .flushing ∧ (s.finishReadings.ramp n).state = .metering)) ∧
        (∀ x, ((s.chan x).complete s.settings).ClosedAs (t.chan x) s.settings (s.pendSettings.getD s.settings) ∧
          DetectorNoticed t x ((s.chan x).complete s.settings) s.settings ∧
          ((t.chan x).health ≠ (s.chan x).health ∨ (s.chan x).kind ≠ (s.chan x).sampling ∨
              (s.chan x).sampling ≠ none ∧ (s.chan x).refsChanged = true → HealthReported s t x)) ∧
        (∀ n, (t.ramp n).effPresence ≠ (s.ramp n).effPresence → (t.ramp n).contOn = 0 ∧ (t.ramp n).contOff = 0) ∧
        (c.1 = .windowSelfClose → Raised t .sync 0 (.sync s.winNum) false) ∧
        t.slots = s.slots ∧ t.stage = s.stage ∧ t.store = s.store ∧ t.count = s.count ∧ SetsOnly s t)

/-- Health at a window close: the table of R56 for a channel that is evaluated, SETTLING by R55, and no move for a channel
whose kind is not its sampling kind (R51). -/
def Obligations.HealthMoves : Prop :=
  ∀ (r : Channel) (set : Settings),
    (r.sampling = none ∨ r.kind ≠ r.sampling → r.moveHealth set = r) ∧
    (∀ k, r.sampling = some k → r.kind = some k →
      (r.health = .settling → r.healthCount = 0 → r.moveHealth set = { r with healthCount := 1 }) ∧
      (r.health = .settling → r.healthCount ≠ 0 → r.moveHealth set = { r with health := .good, healthCount := 0 }) ∧
      (r.faults = .empty →
        (r.health = .good ∨ r.health = .suspect → r.moveHealth set = { r with health := .good, healthCount := 0 }) ∧
        (r.health = .failed → r.moveHealth set =
          if set.recovery ≤ r.healthCount + 1 then { r with health := .good, healthCount := 0 }
          else { r with healthCount := r.healthCount + 1 })) ∧
      (r.faults ≠ .empty →
        (r.health = .good → r.moveHealth set =
          if set.persistence ≤ 1 then { r with health := .failed, healthCount := 0 }
          else { r with health := .suspect, healthCount := 1 }) ∧
        (r.health = .suspect → r.moveHealth set =
          if set.persistence ≤ r.healthCount + 1 then { r with health := .failed, healthCount := 0 }
          else { r with healthCount := r.healthCount + 1 }) ∧
        (r.health = .failed → r.moveHealth set = { r with healthCount := 0 })))

/-! ### Proving, supervision, PERMIT -/

/-- PROVING INPUT CHANGE sets the readings, with the mismatch timer and standing mark of R119; a fault is due on a head
whose mismatch has lasted the tolerance, unless it stands; PROVING FAULT DECLARED by the class and the ramp's state:
LOCKOUT, the LOCKOUT notice again, or a LAMP notice, on a VACANT ramp's head as on a PARKED one's (R33, R34, R39, R118 to
R120). The table of R118 is stated first, with what a change of aspect or of readings does to the mismatch timer and the
standing mark; a standing mark cleared takes the live flag of the LAMP notice with it, and a LOCKOUT out of FLUSHING that of
the FLUSH notice (R106, R150). That a due fault is held until it is taken, and that a RED-OUT or a GREEN-OUT that was due as
its ramp entered LOCKOUT is dropped, are the model's choice. Rests on the model's logs 28, 29, 30, 31, 55. -/
def Obligations.ProvingTaken : Prop :=
  (∀ h : Head, (h.aspect, h.redProved, h.greenProved, h.shown) ∈
    [(Aspect.red, true, false, none), (.red, false, true, some FaultClass.greenConflict),
      (.red, true, true, some .greenConflict), (.red, false, false, some .redOut),
      (.green, true, false, some .greenOut), (.green, false, true, none),
      (.green, true, true, some .greenConflict), (.green, false, false, some .greenOut),
      (.dark, true, false, some .strayRed), (.dark, false, true, some .greenConflict),
      (.dark, true, true, some .greenConflict), (.dark, false, false, none)]) ∧
  (∀ old new : Head,
    (new.shown = none → old.reprove new = { new with mismatch := 0, standing := false }) ∧
    (∀ f, new.shown = some f → (old.shown ≠ some f ∨ old.aspect ≠ new.aspect) →
      old.reprove new = { new with mismatch := 0 }) ∧
    (∀ f, new.shown = some f → old.shown = some f → old.aspect = new.aspect → old.reprove new = new)) ∧
  ∀ (s : State) (h : HeadNo) (red green : Bool), s.resetHeld = false →
    (∃ t, exec (.provingInputChange h red green) s = .next t ∧
      (∀ l, (t.link l).set =
        if (s.head h).standing = true ∧ (t.head h).standing = false then liveClearIn .lamp h.val (s.link l).set
        else (s.link l).set) ∧
      t.head h = (s.head h).reprove { s.head h with
        redPin := red, greenPin := green, redProved := red, greenProved := green
        due := if red = (s.head h).redProved ∧ green = (s.head h).greenProved then (s.head h).due else none } ∧
      (∀ g, g ≠ h → t.head g = s.head g) ∧ t.ramps = s.ramps ∧ OnlyRamp (headRamp h) s t ∧ SetsOnly s t) ∧
    (∀ f, (s.head h).shown = some f → s.settings.tolerance ≤ (s.head h).mismatch →
      ¬ ((s.head h).standing = true ∧ (s.head h).lastFault = some f) → (s.head h).due = none ∨ (s.head h).due = some f →
      s.faultDue h = some f) ∧
    (∀ f, (s.head h).due = some f → s.faultDue h = some f) ∧
    (∀ f, s.faultDue h = some f →
      let r := s.ramp (headRamp h)
      let used := ∃ p, r.plan = some p ∧ headLane h ∈ p.laneList
      (used → r.running = true → f = .redOut ∨ f = .greenConflict →
        ∃ t, exec (.provingFaultDeclared h) s = .next t ∧ OnlyRamp (headRamp h) s t ∧ SetsOnly s t ∧
          (t.head h).lastFault = some f ∧ (t.ramp (headRamp h)).state = .lockout ∧ (t.ramp (headRamp h)).sub = none ∧
          (t.ramp (headRamp h)).plan = r.installAmendment.plan ∧ (t.ramp (headRamp h)).amendment = none ∧
          (t.ramp (headRamp h)).retirePending = r.retirePending ∧ (t.ramp (headRamp h)).q = r.q ∧
          (t.ramp (headRamp h)).authority = r.authority ∧ (t.ramp (headRamp h)).override = r.override ∧
          (t.ramp (headRamp h)).stopped = r.stopped ∧ RatesKept r (t.ramp (headRamp h)) ∧
          (∀ k, (t.head (headOf (headRamp h) k)).aspect = .dark) ∧ t.beacon (headRamp h) = false ∧
          (∀ g, headRamp g = headRamp h →
            let old : Head :=
              if g = h then { s.head h with lastFault := some f, standing := true, due := none } else s.head g
            t.head g = old.reprove { old with
              cycle := .dark
              sinceEnd := if old.cycle = .green ∨ old.cycle = .restGreen then 0 else old.sinceEnd } ∧
            (old.standing = true → (t.head g).standing = false → NotLive t .lamp g.val)) ∧
          (∀ g, g ≠ h → (t.head g).due = (s.head g).due) ∧
          (r.state = .flushing → NotLive t .flush (headRamp h).val) ∧
          Raised t .lockout (headRamp h).val (.lockout .lockout .provingFault h f) false) ∧
      (used → r.state = .lockout → f = .greenConflict ∨ f = .strayRed →
        ∃ t, exec (.provingFaultDeclared h) s = .next t ∧ OnlyRamp (headRamp h) s t ∧ SetsOnly s t ∧ t.ramps = s.ramps ∧
          t.heads = s.heads.set h { s.head h with lastFault := some f, standing := true, due := none } ∧
          Raised t .lockout (headRamp h).val (.lockout .lockout .provingFault h f) false) ∧
      (used → r.state = .lockout → f = .redOut ∨ f = .greenOut →
        exec (.provingFaultDeclared h) s = .next { s with heads := s.heads.set h { s.head h with due := none } }) ∧
      (¬ used ∨ r.running = true ∧ (f = .greenOut ∨ f = .strayRed) ∨ r.state = .vacant ∨ r.state = .parked →
        ∃ t, exec (.provingFaultDeclared h) s = .next t ∧ OnlyRamp (headRamp h) s t ∧ SetsOnly s t ∧ t.ramps = s.ramps ∧
          t.heads = s.heads.set h { s.head h with lastFault := some f, standing := true, due := none } ∧
          Raised t .lamp h.val (.lamp f (s.head h).aspect r.state) true))

/-- SUPERVISION LAPSE: a SUPERVISED link whose timer has reached its time above 0 loses its authorities, its overrides and
its zones, and its notice is live (R130, R131). That the row taken when no lapse is due changes nothing is the model's
choice. Rests on the model's log 8. -/
def Obligations.SupervisionLapses : Prop :=
  ∀ (s : State) (l : Link), s.resetHeld = false →
    ((s.link l).supervised = true → 0 < (s.link l).supTime → (s.link l).supTime ≤ (s.link l).supTimer →
      ∃ t, exec (.supervisionLapse l) s = .next t ∧
        t.link l = { s.link l with
          supervised := false, supTimer := 0
          set := raiseInto .supervision (linkIndex l) .none true (s.link l).set } ∧
        (∀ k, k ≠ l → t.link k = { s.link k with
          set := raiseInto .supervision (linkIndex l) .none true (s.link k).set }) ∧
        (∀ n, t.ramp n = { s.ramp n with
          authority := if (s.ramp n).authority = some l then none else (s.ramp n).authority
          override := match (s.ramp n).override with
            | none => none
            | some o => if o.setBy = l then none else some o }) ∧
        (∀ z, t.zone z = { s.zone z with owner := if (s.zone z).owner = some l then none else (s.zone z).owner }) ∧
        t.heads = s.heads ∧ t.chans = s.chans ∧ RestSame s t) ∧
    (¬ ((s.link l).supervised = true ∧ 0 < (s.link l).supTime ∧ (s.link l).supTime ≤ (s.link l).supTimer) →
      exec (.supervisionLapse l) s = .next s)

/-- PERMIT LOSS stops every running ramp, the FLUSH notice of a flushing one no longer live (R106), and raises the PERMIT
notice live; PERMIT RETURN clears its live flag and moves no ramp (R37, R38). Rests on the model's logs 29, 30. -/
def Obligations.PermitLossAndReturn : Prop :=
  ∀ s : State, s.resetHeld = false →
    (s.permit = true → ∃ t, exec .permitLoss s = .next t ∧ t.permit = false ∧
      (∀ n, (t.ramp n).running = false) ∧
      (∀ n, (s.ramp n).running = false → t.ramp n = s.ramp n) ∧
      (∀ n, (s.ramp n).running = true → (s.ramp n).retirePending = false →
        (t.ramp n).state = .parked ∧ (t.ramp n).sub = none ∧ (t.ramp n).stopped = some .permit ∧
          (t.ramp n).plan = (s.ramp n).installAmendment.plan ∧ RatesKept (s.ramp n) (t.ramp n) ∧
          (t.ramp n).authority = (s.ramp n).authority ∧ (t.ramp n).override = (s.ramp n).override ∧
          Raised t .rampState n.val (.rampState .parked .permitLost) false) ∧
      (∀ n, (s.ramp n).running = true → (s.ramp n).retirePending = true →
        t.ramp n = Ramp.vacantRecord ∧ (∀ z, ∀ m ∈ (t.zone z).members, m.1 ≠ n) ∧
          (∀ c, ∀ p ∈ (t.chan c).refs, p.1 ≠ .ramp n) ∧
          Raised t .rampState n.val (.rampState .vacant .permitLost) false) ∧
      (∀ n k, (s.ramp n).running = true → (t.head (headOf n k)).aspect = .dark) ∧
      (∀ n, (s.ramp n).state = .flushing → NotLive t .flush n.val) ∧
      (∀ h, (t.head h).due = (s.head h).due) ∧
      Raised t .permit 0 .none true ∧ SetsOnly s t) ∧
    (s.permit = false → ∃ t, exec .permitReturn s = .next t ∧ t.permit = true ∧ t.ramps = s.ramps ∧
      t.heads = s.heads ∧ t.chans = s.chans ∧ t.zones = s.zones ∧
      (∀ l, (t.link l).set = liveClearIn .permit 0 (s.link l).set) ∧ SetsOnly s t)
end

