-- ==== Sys2Proof/Laws/State.lean ====
section
/-! SUPPORT. The small lemmas of State: every field after every base operation, and reading back what was written. -/

namespace Sys2Proof.Machine

/-! ### setLink -/

@[simp] theorem State.setLink_pending (s : State) (l : Link) (c : LinkCtx) : (s.setLink l c).pending = s.pending := by cases l <;> rfl
@[simp] theorem State.setLink_count (s : State) (l : Link) (c : LinkCtx) : (s.setLink l c).count = s.count := by cases l <;> rfl
@[simp] theorem State.setLink_resetHeld (s : State) (l : Link) (c : LinkCtx) : (s.setLink l c).resetHeld = s.resetHeld := by cases l <;> rfl
@[simp] theorem State.setLink_permit (s : State) (l : Link) (c : LinkCtx) : (s.setLink l c).permit = s.permit := by cases l <;> rfl
@[simp] theorem State.setLink_takeover (s : State) (l : Link) (c : LinkCtx) : (s.setLink l c).takeover = s.takeover := by cases l <;> rfl
@[simp] theorem State.setLink_tieCount (s : State) (l : Link) (c : LinkCtx) : (s.setLink l c).tieCount = s.tieCount := by cases l <;> rfl
@[simp] theorem State.setLink_restartPending (s : State) (l : Link) (c : LinkCtx) : (s.setLink l c).restartPending = s.restartPending := by cases l <;> rfl
@[simp] theorem State.setLink_chans (s : State) (l : Link) (c : LinkCtx) : (s.setLink l c).chans = s.chans := by cases l <;> rfl
@[simp] theorem State.setLink_winNum (s : State) (l : Link) (c : LinkCtx) : (s.setLink l c).winNum = s.winNum := by cases l <;> rfl
@[simp] theorem State.setLink_elapsed (s : State) (l : Link) (c : LinkCtx) : (s.setLink l c).elapsed = s.elapsed := by cases l <;> rfl
@[simp] theorem State.setLink_settings (s : State) (l : Link) (c : LinkCtx) : (s.setLink l c).settings = s.settings := by cases l <;> rfl
@[simp] theorem State.setLink_pendSettings (s : State) (l : Link) (c : LinkCtx) : (s.setLink l c).pendSettings = s.pendSettings := by cases l <;> rfl
@[simp] theorem State.setLink_lastClosed (s : State) (l : Link) (c : LinkCtx) : (s.setLink l c).lastClosed = s.lastClosed := by cases l <;> rfl
@[simp] theorem State.setLink_ramps (s : State) (l : Link) (c : LinkCtx) : (s.setLink l c).ramps = s.ramps := by cases l <;> rfl
@[simp] theorem State.setLink_heads (s : State) (l : Link) (c : LinkCtx) : (s.setLink l c).heads = s.heads := by cases l <;> rfl
@[simp] theorem State.setLink_zones (s : State) (l : Link) (c : LinkCtx) : (s.setLink l c).zones = s.zones := by cases l <;> rfl
@[simp] theorem State.setLink_bulletin (s : State) (l : Link) (c : LinkCtx) : (s.setLink l c).bulletin = s.bulletin := by cases l <;> rfl
@[simp] theorem State.setLink_transit (s : State) (l : Link) (c : LinkCtx) : (s.setLink l c).transit = s.transit := by cases l <;> rfl
@[simp] theorem State.setLink_stage (s : State) (l : Link) (c : LinkCtx) : (s.setLink l c).stage = s.stage := by cases l <;> rfl
@[simp] theorem State.setLink_slots (s : State) (l : Link) (c : LinkCtx) : (s.setLink l c).slots = s.slots := by cases l <;> rfl
@[simp] theorem State.setLink_store (s : State) (l : Link) (c : LinkCtx) : (s.setLink l c).store = s.store := by cases l <;> rfl
@[simp] theorem State.setLink_scan (s : State) (l : Link) (c : LinkCtx) : (s.setLink l c).scan = s.scan := by cases l <;> rfl
@[simp] theorem State.setLink_report (s : State) (l : Link) (c : LinkCtx) : (s.setLink l c).report = s.report := by cases l <;> rfl

@[simp] theorem State.setLink_ramp (s : State) (l : Link) (c : LinkCtx) (m : RampNo) : (s.setLink l c).ramp m = s.ramp m := by simp [State.ramp]
@[simp] theorem State.setLink_head (s : State) (l : Link) (c : LinkCtx) (g : HeadNo) : (s.setLink l c).head g = s.head g := by simp [State.head]
@[simp] theorem State.setLink_chan (s : State) (l : Link) (c : LinkCtx) (x : Chan) : (s.setLink l c).chan x = s.chan x := by simp [State.chan]
@[simp] theorem State.setLink_zone (s : State) (l : Link) (c : LinkCtx) (y : ZoneNo) : (s.setLink l c).zone y = s.zone y := by simp [State.zone]
@[simp] theorem State.setLink_slot (s : State) (l : Link) (c : LinkCtx) (j : SlotNo) : (s.setLink l c).slot j = s.slot j := by simp [State.slot]

/-! ### setRamp -/

@[simp] theorem State.setRamp_pending (s : State) (n : RampNo) (r : Ramp) : (s.setRamp n r).pending = s.pending := rfl
@[simp] theorem State.setRamp_count (s : State) (n : RampNo) (r : Ramp) : (s.setRamp n r).count = s.count := rfl
@[simp] theorem State.setRamp_resetHeld (s : State) (n : RampNo) (r : Ramp) : (s.setRamp n r).resetHeld = s.resetHeld := rfl
@[simp] theorem State.setRamp_permit (s : State) (n : RampNo) (r : Ramp) : (s.setRamp n r).permit = s.permit := rfl
@[simp] theorem State.setRamp_takeover (s : State) (n : RampNo) (r : Ramp) : (s.setRamp n r).takeover = s.takeover := rfl
@[simp] theorem State.setRamp_tieCount (s : State) (n : RampNo) (r : Ramp) : (s.setRamp n r).tieCount = s.tieCount := rfl
@[simp] theorem State.setRamp_loc (s : State) (n : RampNo) (r : Ramp) : (s.setRamp n r).loc = s.loc := rfl
@[simp] theorem State.setRamp_centre (s : State) (n : RampNo) (r : Ramp) : (s.setRamp n r).centre = s.centre := rfl
@[simp] theorem State.setRamp_restartPending (s : State) (n : RampNo) (r : Ramp) : (s.setRamp n r).restartPending = s.restartPending := rfl
@[simp] theorem State.setRamp_chans (s : State) (n : RampNo) (r : Ramp) : (s.setRamp n r).chans = s.chans := rfl
@[simp] theorem State.setRamp_winNum (s : State) (n : RampNo) (r : Ramp) : (s.setRamp n r).winNum = s.winNum := rfl
@[simp] theorem State.setRamp_elapsed (s : State) (n : RampNo) (r : Ramp) : (s.setRamp n r).elapsed = s.elapsed := rfl
@[simp] theorem State.setRamp_settings (s : State) (n : RampNo) (r : Ramp) : (s.setRamp n r).settings = s.settings := rfl
@[simp] theorem State.setRamp_pendSettings (s : State) (n : RampNo) (r : Ramp) : (s.setRamp n r).pendSettings = s.pendSettings := rfl
@[simp] theorem State.setRamp_lastClosed (s : State) (n : RampNo) (r : Ramp) : (s.setRamp n r).lastClosed = s.lastClosed := rfl
@[simp] theorem State.setRamp_heads (s : State) (n : RampNo) (r : Ramp) : (s.setRamp n r).heads = s.heads := rfl
@[simp] theorem State.setRamp_zones (s : State) (n : RampNo) (r : Ramp) : (s.setRamp n r).zones = s.zones := rfl
@[simp] theorem State.setRamp_bulletin (s : State) (n : RampNo) (r : Ramp) : (s.setRamp n r).bulletin = s.bulletin := rfl
@[simp] theorem State.setRamp_transit (s : State) (n : RampNo) (r : Ramp) : (s.setRamp n r).transit = s.transit := rfl
@[simp] theorem State.setRamp_stage (s : State) (n : RampNo) (r : Ramp) : (s.setRamp n r).stage = s.stage := rfl
@[simp] theorem State.setRamp_slots (s : State) (n : RampNo) (r : Ramp) : (s.setRamp n r).slots = s.slots := rfl
@[simp] theorem State.setRamp_store (s : State) (n : RampNo) (r : Ramp) : (s.setRamp n r).store = s.store := rfl
@[simp] theorem State.setRamp_scan (s : State) (n : RampNo) (r : Ramp) : (s.setRamp n r).scan = s.scan := rfl
@[simp] theorem State.setRamp_report (s : State) (n : RampNo) (r : Ramp) : (s.setRamp n r).report = s.report := rfl

@[simp] theorem State.setRamp_head (s : State) (n : RampNo) (r : Ramp) (g : HeadNo) : (s.setRamp n r).head g = s.head g := by simp [State.head]
@[simp] theorem State.setRamp_chan (s : State) (n : RampNo) (r : Ramp) (x : Chan) : (s.setRamp n r).chan x = s.chan x := by simp [State.chan]
@[simp] theorem State.setRamp_zone (s : State) (n : RampNo) (r : Ramp) (y : ZoneNo) : (s.setRamp n r).zone y = s.zone y := by simp [State.zone]
@[simp] theorem State.setRamp_slot (s : State) (n : RampNo) (r : Ramp) (j : SlotNo) : (s.setRamp n r).slot j = s.slot j := by simp [State.slot]
@[simp] theorem State.setRamp_link (s : State) (n : RampNo) (r : Ramp) (l : Link) : (s.setRamp n r).link l = s.link l := by cases l <;> rfl

/-! ### modRamp -/

@[simp] theorem State.modRamp_pending (s : State) (n : RampNo) (f : Ramp → Ramp) : (s.modRamp n f).pending = s.pending := rfl
@[simp] theorem State.modRamp_count (s : State) (n : RampNo) (f : Ramp → Ramp) : (s.modRamp n f).count = s.count := rfl
@[simp] theorem State.modRamp_resetHeld (s : State) (n : RampNo) (f : Ramp → Ramp) : (s.modRamp n f).resetHeld = s.resetHeld := rfl
@[simp] theorem State.modRamp_permit (s : State) (n : RampNo) (f : Ramp → Ramp) : (s.modRamp n f).permit = s.permit := rfl
@[simp] theorem State.modRamp_takeover (s : State) (n : RampNo) (f : Ramp → Ramp) : (s.modRamp n f).takeover = s.takeover := rfl
@[simp] theorem State.modRamp_tieCount (s : State) (n : RampNo) (f : Ramp → Ramp) : (s.modRamp n f).tieCount = s.tieCount := rfl
@[simp] theorem State.modRamp_loc (s : State) (n : RampNo) (f : Ramp → Ramp) : (s.modRamp n f).loc = s.loc := rfl
@[simp] theorem State.modRamp_centre (s : State) (n : RampNo) (f : Ramp → Ramp) : (s.modRamp n f).centre = s.centre := rfl
@[simp] theorem State.modRamp_restartPending (s : State) (n : RampNo) (f : Ramp → Ramp) : (s.modRamp n f).restartPending = s.restartPending := rfl
@[simp] theorem State.modRamp_chans (s : State) (n : RampNo) (f : Ramp → Ramp) : (s.modRamp n f).chans = s.chans := rfl
@[simp] theorem State.modRamp_winNum (s : State) (n : RampNo) (f : Ramp → Ramp) : (s.modRamp n f).winNum = s.winNum := rfl
@[simp] theorem State.modRamp_elapsed (s : State) (n : RampNo) (f : Ramp → Ramp) : (s.modRamp n f).elapsed = s.elapsed := rfl
@[simp] theorem State.modRamp_settings (s : State) (n : RampNo) (f : Ramp → Ramp) : (s.modRamp n f).settings = s.settings := rfl
@[simp] theorem State.modRamp_pendSettings (s : State) (n : RampNo) (f : Ramp → Ramp) : (s.modRamp n f).pendSettings = s.pendSettings := rfl
@[simp] theorem State.modRamp_lastClosed (s : State) (n : RampNo) (f : Ramp → Ramp) : (s.modRamp n f).lastClosed = s.lastClosed := rfl
@[simp] theorem State.modRamp_heads (s : State) (n : RampNo) (f : Ramp → Ramp) : (s.modRamp n f).heads = s.heads := rfl
@[simp] theorem State.modRamp_zones (s : State) (n : RampNo) (f : Ramp → Ramp) : (s.modRamp n f).zones = s.zones := rfl
@[simp] theorem State.modRamp_bulletin (s : State) (n : RampNo) (f : Ramp → Ramp) : (s.modRamp n f).bulletin = s.bulletin := rfl
@[simp] theorem State.modRamp_transit (s : State) (n : RampNo) (f : Ramp → Ramp) : (s.modRamp n f).transit = s.transit := rfl
@[simp] theorem State.modRamp_stage (s : State) (n : RampNo) (f : Ramp → Ramp) : (s.modRamp n f).stage = s.stage := rfl
@[simp] theorem State.modRamp_slots (s : State) (n : RampNo) (f : Ramp → Ramp) : (s.modRamp n f).slots = s.slots := rfl
@[simp] theorem State.modRamp_store (s : State) (n : RampNo) (f : Ramp → Ramp) : (s.modRamp n f).store = s.store := rfl
@[simp] theorem State.modRamp_scan (s : State) (n : RampNo) (f : Ramp → Ramp) : (s.modRamp n f).scan = s.scan := rfl
@[simp] theorem State.modRamp_report (s : State) (n : RampNo) (f : Ramp → Ramp) : (s.modRamp n f).report = s.report := rfl

@[simp] theorem State.modRamp_head (s : State) (n : RampNo) (f : Ramp → Ramp) (g : HeadNo) : (s.modRamp n f).head g = s.head g := by simp [State.head]
@[simp] theorem State.modRamp_chan (s : State) (n : RampNo) (f : Ramp → Ramp) (x : Chan) : (s.modRamp n f).chan x = s.chan x := by simp [State.chan]
@[simp] theorem State.modRamp_zone (s : State) (n : RampNo) (f : Ramp → Ramp) (y : ZoneNo) : (s.modRamp n f).zone y = s.zone y := by simp [State.zone]
@[simp] theorem State.modRamp_slot (s : State) (n : RampNo) (f : Ramp → Ramp) (j : SlotNo) : (s.modRamp n f).slot j = s.slot j := by simp [State.slot]
@[simp] theorem State.modRamp_link (s : State) (n : RampNo) (f : Ramp → Ramp) (l : Link) : (s.modRamp n f).link l = s.link l := by cases l <;> rfl

/-! ### setHead -/

@[simp] theorem State.setHead_pending (s : State) (h : HeadNo) (c : Head) : (s.setHead h c).pending = s.pending := rfl
@[simp] theorem State.setHead_count (s : State) (h : HeadNo) (c : Head) : (s.setHead h c).count = s.count := rfl
@[simp] theorem State.setHead_resetHeld (s : State) (h : HeadNo) (c : Head) : (s.setHead h c).resetHeld = s.resetHeld := rfl
@[simp] theorem State.setHead_permit (s : State) (h : HeadNo) (c : Head) : (s.setHead h c).permit = s.permit := rfl
@[simp] theorem State.setHead_takeover (s : State) (h : HeadNo) (c : Head) : (s.setHead h c).takeover = s.takeover := rfl
@[simp] theorem State.setHead_tieCount (s : State) (h : HeadNo) (c : Head) : (s.setHead h c).tieCount = s.tieCount := rfl
@[simp] theorem State.setHead_loc (s : State) (h : HeadNo) (c : Head) : (s.setHead h c).loc = s.loc := rfl
@[simp] theorem State.setHead_centre (s : State) (h : HeadNo) (c : Head) : (s.setHead h c).centre = s.centre := rfl
@[simp] theorem State.setHead_restartPending (s : State) (h : HeadNo) (c : Head) : (s.setHead h c).restartPending = s.restartPending := rfl
@[simp] theorem State.setHead_chans (s : State) (h : HeadNo) (c : Head) : (s.setHead h c).chans = s.chans := rfl
@[simp] theorem State.setHead_winNum (s : State) (h : HeadNo) (c : Head) : (s.setHead h c).winNum = s.winNum := rfl
@[simp] theorem State.setHead_elapsed (s : State) (h : HeadNo) (c : Head) : (s.setHead h c).elapsed = s.elapsed := rfl
@[simp] theorem State.setHead_settings (s : State) (h : HeadNo) (c : Head) : (s.setHead h c).settings = s.settings := rfl
@[simp] theorem State.setHead_pendSettings (s : State) (h : HeadNo) (c : Head) : (s.setHead h c).pendSettings = s.pendSettings := rfl
@[simp] theorem State.setHead_lastClosed (s : State) (h : HeadNo) (c : Head) : (s.setHead h c).lastClosed = s.lastClosed := rfl
@[simp] theorem State.setHead_ramps (s : State) (h : HeadNo) (c : Head) : (s.setHead h c).ramps = s.ramps := rfl
@[simp] theorem State.setHead_zones (s : State) (h : HeadNo) (c : Head) : (s.setHead h c).zones = s.zones := rfl
@[simp] theorem State.setHead_bulletin (s : State) (h : HeadNo) (c : Head) : (s.setHead h c).bulletin = s.bulletin := rfl
@[simp] theorem State.setHead_transit (s : State) (h : HeadNo) (c : Head) : (s.setHead h c).transit = s.transit := rfl
@[simp] theorem State.setHead_stage (s : State) (h : HeadNo) (c : Head) : (s.setHead h c).stage = s.stage := rfl
@[simp] theorem State.setHead_slots (s : State) (h : HeadNo) (c : Head) : (s.setHead h c).slots = s.slots := rfl
@[simp] theorem State.setHead_store (s : State) (h : HeadNo) (c : Head) : (s.setHead h c).store = s.store := rfl
@[simp] theorem State.setHead_scan (s : State) (h : HeadNo) (c : Head) : (s.setHead h c).scan = s.scan := rfl
@[simp] theorem State.setHead_report (s : State) (h : HeadNo) (c : Head) : (s.setHead h c).report = s.report := rfl

@[simp] theorem State.setHead_ramp (s : State) (h : HeadNo) (c : Head) (m : RampNo) : (s.setHead h c).ramp m = s.ramp m := by simp [State.ramp]
@[simp] theorem State.setHead_chan (s : State) (h : HeadNo) (c : Head) (x : Chan) : (s.setHead h c).chan x = s.chan x := by simp [State.chan]
@[simp] theorem State.setHead_zone (s : State) (h : HeadNo) (c : Head) (y : ZoneNo) : (s.setHead h c).zone y = s.zone y := by simp [State.zone]
@[simp] theorem State.setHead_slot (s : State) (h : HeadNo) (c : Head) (j : SlotNo) : (s.setHead h c).slot j = s.slot j := by simp [State.slot]
@[simp] theorem State.setHead_link (s : State) (h : HeadNo) (c : Head) (l : Link) : (s.setHead h c).link l = s.link l := by cases l <;> rfl

/-! ### setChan -/

@[simp] theorem State.setChan_pending (s : State) (c : Chan) (r : Channel) : (s.setChan c r).pending = s.pending := rfl
@[simp] theorem State.setChan_count (s : State) (c : Chan) (r : Channel) : (s.setChan c r).count = s.count := rfl
@[simp] theorem State.setChan_resetHeld (s : State) (c : Chan) (r : Channel) : (s.setChan c r).resetHeld = s.resetHeld := rfl
@[simp] theorem State.setChan_permit (s : State) (c : Chan) (r : Channel) : (s.setChan c r).permit = s.permit := rfl
@[simp] theorem State.setChan_takeover (s : State) (c : Chan) (r : Channel) : (s.setChan c r).takeover = s.takeover := rfl
@[simp] theorem State.setChan_tieCount (s : State) (c : Chan) (r : Channel) : (s.setChan c r).tieCount = s.tieCount := rfl
@[simp] theorem State.setChan_loc (s : State) (c : Chan) (r : Channel) : (s.setChan c r).loc = s.loc := rfl
@[simp] theorem State.setChan_centre (s : State) (c : Chan) (r : Channel) : (s.setChan c r).centre = s.centre := rfl
@[simp] theorem State.setChan_restartPending (s : State) (c : Chan) (r : Channel) : (s.setChan c r).restartPending = s.restartPending := rfl
@[simp] theorem State.setChan_winNum (s : State) (c : Chan) (r : Channel) : (s.setChan c r).winNum = s.winNum := rfl
@[simp] theorem State.setChan_elapsed (s : State) (c : Chan) (r : Channel) : (s.setChan c r).elapsed = s.elapsed := rfl
@[simp] theorem State.setChan_settings (s : State) (c : Chan) (r : Channel) : (s.setChan c r).settings = s.settings := rfl
@[simp] theorem State.setChan_pendSettings (s : State) (c : Chan) (r : Channel) : (s.setChan c r).pendSettings = s.pendSettings := rfl
@[simp] theorem State.setChan_lastClosed (s : State) (c : Chan) (r : Channel) : (s.setChan c r).lastClosed = s.lastClosed := rfl
@[simp] theorem State.setChan_ramps (s : State) (c : Chan) (r : Channel) : (s.setChan c r).ramps = s.ramps := rfl
@[simp] theorem State.setChan_heads (s : State) (c : Chan) (r : Channel) : (s.setChan c r).heads = s.heads := rfl
@[simp] theorem State.setChan_zones (s : State) (c : Chan) (r : Channel) : (s.setChan c r).zones = s.zones := rfl
@[simp] theorem State.setChan_bulletin (s : State) (c : Chan) (r : Channel) : (s.setChan c r).bulletin = s.bulletin := rfl
@[simp] theorem State.setChan_transit (s : State) (c : Chan) (r : Channel) : (s.setChan c r).transit = s.transit := rfl
@[simp] theorem State.setChan_stage (s : State) (c : Chan) (r : Channel) : (s.setChan c r).stage = s.stage := rfl
@[simp] theorem State.setChan_slots (s : State) (c : Chan) (r : Channel) : (s.setChan c r).slots = s.slots := rfl
@[simp] theorem State.setChan_store (s : State) (c : Chan) (r : Channel) : (s.setChan c r).store = s.store := rfl
@[simp] theorem State.setChan_scan (s : State) (c : Chan) (r : Channel) : (s.setChan c r).scan = s.scan := rfl
@[simp] theorem State.setChan_report (s : State) (c : Chan) (r : Channel) : (s.setChan c r).report = s.report := rfl

@[simp] theorem State.setChan_ramp (s : State) (c : Chan) (r : Channel) (m : RampNo) : (s.setChan c r).ramp m = s.ramp m := by simp [State.ramp]
@[simp] theorem State.setChan_head (s : State) (c : Chan) (r : Channel) (g : HeadNo) : (s.setChan c r).head g = s.head g := by simp [State.head]
@[simp] theorem State.setChan_zone (s : State) (c : Chan) (r : Channel) (y : ZoneNo) : (s.setChan c r).zone y = s.zone y := by simp [State.zone]
@[simp] theorem State.setChan_slot (s : State) (c : Chan) (r : Channel) (j : SlotNo) : (s.setChan c r).slot j = s.slot j := by simp [State.slot]
@[simp] theorem State.setChan_link (s : State) (c : Chan) (r : Channel) (l : Link) : (s.setChan c r).link l = s.link l := by cases l <;> rfl

/-! ### modChan -/

@[simp] theorem State.modChan_pending (s : State) (c : Chan) (f : Channel → Channel) : (s.modChan c f).pending = s.pending := rfl
@[simp] theorem State.modChan_count (s : State) (c : Chan) (f : Channel → Channel) : (s.modChan c f).count = s.count := rfl
@[simp] theorem State.modChan_resetHeld (s : State) (c : Chan) (f : Channel → Channel) : (s.modChan c f).resetHeld = s.resetHeld := rfl
@[simp] theorem State.modChan_permit (s : State) (c : Chan) (f : Channel → Channel) : (s.modChan c f).permit = s.permit := rfl
@[simp] theorem State.modChan_takeover (s : State) (c : Chan) (f : Channel → Channel) : (s.modChan c f).takeover = s.takeover := rfl
@[simp] theorem State.modChan_tieCount (s : State) (c : Chan) (f : Channel → Channel) : (s.modChan c f).tieCount = s.tieCount := rfl
@[simp] theorem State.modChan_loc (s : State) (c : Chan) (f : Channel → Channel) : (s.modChan c f).loc = s.loc := rfl
@[simp] theorem State.modChan_centre (s : State) (c : Chan) (f : Channel → Channel) : (s.modChan c f).centre = s.centre := rfl
@[simp] theorem State.modChan_restartPending (s : State) (c : Chan) (f : Channel → Channel) : (s.modChan c f).restartPending = s.restartPending := rfl
@[simp] theorem State.modChan_winNum (s : State) (c : Chan) (f : Channel → Channel) : (s.modChan c f).winNum = s.winNum := rfl
@[simp] theorem State.modChan_elapsed (s : State) (c : Chan) (f : Channel → Channel) : (s.modChan c f).elapsed = s.elapsed := rfl
@[simp] theorem State.modChan_settings (s : State) (c : Chan) (f : Channel → Channel) : (s.modChan c f).settings = s.settings := rfl
@[simp] theorem State.modChan_pendSettings (s : State) (c : Chan) (f : Channel → Channel) : (s.modChan c f).pendSettings = s.pendSettings := rfl
@[simp] theorem State.modChan_lastClosed (s : State) (c : Chan) (f : Channel → Channel) : (s.modChan c f).lastClosed = s.lastClosed := rfl
@[simp] theorem State.modChan_ramps (s : State) (c : Chan) (f : Channel → Channel) : (s.modChan c f).ramps = s.ramps := rfl
@[simp] theorem State.modChan_heads (s : State) (c : Chan) (f : Channel → Channel) : (s.modChan c f).heads = s.heads := rfl
@[simp] theorem State.modChan_zones (s : State) (c : Chan) (f : Channel → Channel) : (s.modChan c f).zones = s.zones := rfl
@[simp] theorem State.modChan_bulletin (s : State) (c : Chan) (f : Channel → Channel) : (s.modChan c f).bulletin = s.bulletin := rfl
@[simp] theorem State.modChan_transit (s : State) (c : Chan) (f : Channel → Channel) : (s.modChan c f).transit = s.transit := rfl
@[simp] theorem State.modChan_stage (s : State) (c : Chan) (f : Channel → Channel) : (s.modChan c f).stage = s.stage := rfl
@[simp] theorem State.modChan_slots (s : State) (c : Chan) (f : Channel → Channel) : (s.modChan c f).slots = s.slots := rfl
@[simp] theorem State.modChan_store (s : State) (c : Chan) (f : Channel → Channel) : (s.modChan c f).store = s.store := rfl
@[simp] theorem State.modChan_scan (s : State) (c : Chan) (f : Channel → Channel) : (s.modChan c f).scan = s.scan := rfl
@[simp] theorem State.modChan_report (s : State) (c : Chan) (f : Channel → Channel) : (s.modChan c f).report = s.report := rfl

@[simp] theorem State.modChan_ramp (s : State) (c : Chan) (f : Channel → Channel) (m : RampNo) : (s.modChan c f).ramp m = s.ramp m := by simp [State.ramp]
@[simp] theorem State.modChan_head (s : State) (c : Chan) (f : Channel → Channel) (g : HeadNo) : (s.modChan c f).head g = s.head g := by simp [State.head]
@[simp] theorem State.modChan_zone (s : State) (c : Chan) (f : Channel → Channel) (y : ZoneNo) : (s.modChan c f).zone y = s.zone y := by simp [State.zone]
@[simp] theorem State.modChan_slot (s : State) (c : Chan) (f : Channel → Channel) (j : SlotNo) : (s.modChan c f).slot j = s.slot j := by simp [State.slot]
@[simp] theorem State.modChan_link (s : State) (c : Chan) (f : Channel → Channel) (l : Link) : (s.modChan c f).link l = s.link l := by cases l <;> rfl

/-! ### setZone -/

@[simp] theorem State.setZone_pending (s : State) (z : ZoneNo) (r : Zone) : (s.setZone z r).pending = s.pending := rfl
@[simp] theorem State.setZone_count (s : State) (z : ZoneNo) (r : Zone) : (s.setZone z r).count = s.count := rfl
@[simp] theorem State.setZone_resetHeld (s : State) (z : ZoneNo) (r : Zone) : (s.setZone z r).resetHeld = s.resetHeld := rfl
@[simp] theorem State.setZone_permit (s : State) (z : ZoneNo) (r : Zone) : (s.setZone z r).permit = s.permit := rfl
@[simp] theorem State.setZone_takeover (s : State) (z : ZoneNo) (r : Zone) : (s.setZone z r).takeover = s.takeover := rfl
@[simp] theorem State.setZone_tieCount (s : State) (z : ZoneNo) (r : Zone) : (s.setZone z r).tieCount = s.tieCount := rfl
@[simp] theorem State.setZone_loc (s : State) (z : ZoneNo) (r : Zone) : (s.setZone z r).loc = s.loc := rfl
@[simp] theorem State.setZone_centre (s : State) (z : ZoneNo) (r : Zone) : (s.setZone z r).centre = s.centre := rfl
@[simp] theorem State.setZone_restartPending (s : State) (z : ZoneNo) (r : Zone) : (s.setZone z r).restartPending = s.restartPending := rfl
@[simp] theorem State.setZone_chans (s : State) (z : ZoneNo) (r : Zone) : (s.setZone z r).chans = s.chans := rfl
@[simp] theorem State.setZone_winNum (s : State) (z : ZoneNo) (r : Zone) : (s.setZone z r).winNum = s.winNum := rfl
@[simp] theorem State.setZone_elapsed (s : State) (z : ZoneNo) (r : Zone) : (s.setZone z r).elapsed = s.elapsed := rfl
@[simp] theorem State.setZone_settings (s : State) (z : ZoneNo) (r : Zone) : (s.setZone z r).settings = s.settings := rfl
@[simp] theorem State.setZone_pendSettings (s : State) (z : ZoneNo) (r : Zone) : (s.setZone z r).pendSettings = s.pendSettings := rfl
@[simp] theorem State.setZone_lastClosed (s : State) (z : ZoneNo) (r : Zone) : (s.setZone z r).lastClosed = s.lastClosed := rfl
@[simp] theorem State.setZone_ramps (s : State) (z : ZoneNo) (r : Zone) : (s.setZone z r).ramps = s.ramps := rfl
@[simp] theorem State.setZone_heads (s : State) (z : ZoneNo) (r : Zone) : (s.setZone z r).heads = s.heads := rfl
@[simp] theorem State.setZone_bulletin (s : State) (z : ZoneNo) (r : Zone) : (s.setZone z r).bulletin = s.bulletin := rfl
@[simp] theorem State.setZone_transit (s : State) (z : ZoneNo) (r : Zone) : (s.setZone z r).transit = s.transit := rfl
@[simp] theorem State.setZone_stage (s : State) (z : ZoneNo) (r : Zone) : (s.setZone z r).stage = s.stage := rfl
@[simp] theorem State.setZone_slots (s : State) (z : ZoneNo) (r : Zone) : (s.setZone z r).slots = s.slots := rfl
@[simp] theorem State.setZone_store (s : State) (z : ZoneNo) (r : Zone) : (s.setZone z r).store = s.store := rfl
@[simp] theorem State.setZone_scan (s : State) (z : ZoneNo) (r : Zone) : (s.setZone z r).scan = s.scan := rfl
@[simp] theorem State.setZone_report (s : State) (z : ZoneNo) (r : Zone) : (s.setZone z r).report = s.report := rfl

@[simp] theorem State.setZone_ramp (s : State) (z : ZoneNo) (r : Zone) (m : RampNo) : (s.setZone z r).ramp m = s.ramp m := by simp [State.ramp]
@[simp] theorem State.setZone_head (s : State) (z : ZoneNo) (r : Zone) (g : HeadNo) : (s.setZone z r).head g = s.head g := by simp [State.head]
@[simp] theorem State.setZone_chan (s : State) (z : ZoneNo) (r : Zone) (x : Chan) : (s.setZone z r).chan x = s.chan x := by simp [State.chan]
@[simp] theorem State.setZone_slot (s : State) (z : ZoneNo) (r : Zone) (j : SlotNo) : (s.setZone z r).slot j = s.slot j := by simp [State.slot]
@[simp] theorem State.setZone_link (s : State) (z : ZoneNo) (r : Zone) (l : Link) : (s.setZone z r).link l = s.link l := by cases l <;> rfl

/-! ### setSlot -/

@[simp] theorem State.setSlot_pending (s : State) (k : SlotNo) (r : Slot) : (s.setSlot k r).pending = s.pending := rfl
@[simp] theorem State.setSlot_count (s : State) (k : SlotNo) (r : Slot) : (s.setSlot k r).count = s.count := rfl
@[simp] theorem State.setSlot_resetHeld (s : State) (k : SlotNo) (r : Slot) : (s.setSlot k r).resetHeld = s.resetHeld := rfl
@[simp] theorem State.setSlot_permit (s : State) (k : SlotNo) (r : Slot) : (s.setSlot k r).permit = s.permit := rfl
@[simp] theorem State.setSlot_takeover (s : State) (k : SlotNo) (r : Slot) : (s.setSlot k r).takeover = s.takeover := rfl
@[simp] theorem State.setSlot_tieCount (s : State) (k : SlotNo) (r : Slot) : (s.setSlot k r).tieCount = s.tieCount := rfl
@[simp] theorem State.setSlot_loc (s : State) (k : SlotNo) (r : Slot) : (s.setSlot k r).loc = s.loc := rfl
@[simp] theorem State.setSlot_centre (s : State) (k : SlotNo) (r : Slot) : (s.setSlot k r).centre = s.centre := rfl
@[simp] theorem State.setSlot_restartPending (s : State) (k : SlotNo) (r : Slot) : (s.setSlot k r).restartPending = s.restartPending := rfl
@[simp] theorem State.setSlot_chans (s : State) (k : SlotNo) (r : Slot) : (s.setSlot k r).chans = s.chans := rfl
@[simp] theorem State.setSlot_winNum (s : State) (k : SlotNo) (r : Slot) : (s.setSlot k r).winNum = s.winNum := rfl
@[simp] theorem State.setSlot_elapsed (s : State) (k : SlotNo) (r : Slot) : (s.setSlot k r).elapsed = s.elapsed := rfl
@[simp] theorem State.setSlot_settings (s : State) (k : SlotNo) (r : Slot) : (s.setSlot k r).settings = s.settings := rfl
@[simp] theorem State.setSlot_pendSettings (s : State) (k : SlotNo) (r : Slot) : (s.setSlot k r).pendSettings = s.pendSettings := rfl
@[simp] theorem State.setSlot_lastClosed (s : State) (k : SlotNo) (r : Slot) : (s.setSlot k r).lastClosed = s.lastClosed := rfl
@[simp] theorem State.setSlot_ramps (s : State) (k : SlotNo) (r : Slot) : (s.setSlot k r).ramps = s.ramps := rfl
@[simp] theorem State.setSlot_heads (s : State) (k : SlotNo) (r : Slot) : (s.setSlot k r).heads = s.heads := rfl
@[simp] theorem State.setSlot_zones (s : State) (k : SlotNo) (r : Slot) : (s.setSlot k r).zones = s.zones := rfl
@[simp] theorem State.setSlot_bulletin (s : State) (k : SlotNo) (r : Slot) : (s.setSlot k r).bulletin = s.bulletin := rfl
@[simp] theorem State.setSlot_transit (s : State) (k : SlotNo) (r : Slot) : (s.setSlot k r).transit = s.transit := rfl
@[simp] theorem State.setSlot_stage (s : State) (k : SlotNo) (r : Slot) : (s.setSlot k r).stage = s.stage := rfl
@[simp] theorem State.setSlot_store (s : State) (k : SlotNo) (r : Slot) : (s.setSlot k r).store = s.store := rfl
@[simp] theorem State.setSlot_scan (s : State) (k : SlotNo) (r : Slot) : (s.setSlot k r).scan = s.scan := rfl
@[simp] theorem State.setSlot_report (s : State) (k : SlotNo) (r : Slot) : (s.setSlot k r).report = s.report := rfl

@[simp] theorem State.setSlot_ramp (s : State) (k : SlotNo) (r : Slot) (m : RampNo) : (s.setSlot k r).ramp m = s.ramp m := by simp [State.ramp]
@[simp] theorem State.setSlot_head (s : State) (k : SlotNo) (r : Slot) (g : HeadNo) : (s.setSlot k r).head g = s.head g := by simp [State.head]
@[simp] theorem State.setSlot_chan (s : State) (k : SlotNo) (r : Slot) (x : Chan) : (s.setSlot k r).chan x = s.chan x := by simp [State.chan]
@[simp] theorem State.setSlot_zone (s : State) (k : SlotNo) (r : Slot) (y : ZoneNo) : (s.setSlot k r).zone y = s.zone y := by simp [State.zone]
@[simp] theorem State.setSlot_link (s : State) (k : SlotNo) (r : Slot) (l : Link) : (s.setSlot k r).link l = s.link l := by cases l <;> rfl

/-! ### raise -/

@[simp] theorem State.raise_pending (s : State) (k : NoticeKind) (i : Nat) (d : Detail) (live : Bool) : (s.raise k i d live).pending = s.pending := rfl
@[simp] theorem State.raise_count (s : State) (k : NoticeKind) (i : Nat) (d : Detail) (live : Bool) : (s.raise k i d live).count = s.count := rfl
@[simp] theorem State.raise_resetHeld (s : State) (k : NoticeKind) (i : Nat) (d : Detail) (live : Bool) : (s.raise k i d live).resetHeld = s.resetHeld := rfl
@[simp] theorem State.raise_permit (s : State) (k : NoticeKind) (i : Nat) (d : Detail) (live : Bool) : (s.raise k i d live).permit = s.permit := rfl
@[simp] theorem State.raise_takeover (s : State) (k : NoticeKind) (i : Nat) (d : Detail) (live : Bool) : (s.raise k i d live).takeover = s.takeover := rfl
@[simp] theorem State.raise_tieCount (s : State) (k : NoticeKind) (i : Nat) (d : Detail) (live : Bool) : (s.raise k i d live).tieCount = s.tieCount := rfl
@[simp] theorem State.raise_restartPending (s : State) (k : NoticeKind) (i : Nat) (d : Detail) (live : Bool) : (s.raise k i d live).restartPending = s.restartPending := rfl
@[simp] theorem State.raise_chans (s : State) (k : NoticeKind) (i : Nat) (d : Detail) (live : Bool) : (s.raise k i d live).chans = s.chans := rfl
@[simp] theorem State.raise_winNum (s : State) (k : NoticeKind) (i : Nat) (d : Detail) (live : Bool) : (s.raise k i d live).winNum = s.winNum := rfl
@[simp] theorem State.raise_elapsed (s : State) (k : NoticeKind) (i : Nat) (d : Detail) (live : Bool) : (s.raise k i d live).elapsed = s.elapsed := rfl
@[simp] theorem State.raise_settings (s : State) (k : NoticeKind) (i : Nat) (d : Detail) (live : Bool) : (s.raise k i d live).settings = s.settings := rfl
@[simp] theorem State.raise_pendSettings (s : State) (k : NoticeKind) (i : Nat) (d : Detail) (live : Bool) : (s.raise k i d live).pendSettings = s.pendSettings := rfl
@[simp] theorem State.raise_lastClosed (s : State) (k : NoticeKind) (i : Nat) (d : Detail) (live : Bool) : (s.raise k i d live).lastClosed = s.lastClosed := rfl
@[simp] theorem State.raise_ramps (s : State) (k : NoticeKind) (i : Nat) (d : Detail) (live : Bool) : (s.raise k i d live).ramps = s.ramps := rfl
@[simp] theorem State.raise_heads (s : State) (k : NoticeKind) (i : Nat) (d : Detail) (live : Bool) : (s.raise k i d live).heads = s.heads := rfl
@[simp] theorem State.raise_zones (s : State) (k : NoticeKind) (i : Nat) (d : Detail) (live : Bool) : (s.raise k i d live).zones = s.zones := rfl
@[simp] theorem State.raise_bulletin (s : State) (k : NoticeKind) (i : Nat) (d : Detail) (live : Bool) : (s.raise k i d live).bulletin = s.bulletin := rfl
@[simp] theorem State.raise_transit (s : State) (k : NoticeKind) (i : Nat) (d : Detail) (live : Bool) : (s.raise k i d live).transit = s.transit := rfl
@[simp] theorem State.raise_stage (s : State) (k : NoticeKind) (i : Nat) (d : Detail) (live : Bool) : (s.raise k i d live).stage = s.stage := rfl
@[simp] theorem State.raise_slots (s : State) (k : NoticeKind) (i : Nat) (d : Detail) (live : Bool) : (s.raise k i d live).slots = s.slots := rfl
@[simp] theorem State.raise_store (s : State) (k : NoticeKind) (i : Nat) (d : Detail) (live : Bool) : (s.raise k i d live).store = s.store := rfl
@[simp] theorem State.raise_scan (s : State) (k : NoticeKind) (i : Nat) (d : Detail) (live : Bool) : (s.raise k i d live).scan = s.scan := rfl
@[simp] theorem State.raise_report (s : State) (k : NoticeKind) (i : Nat) (d : Detail) (live : Bool) : (s.raise k i d live).report = s.report := rfl

@[simp] theorem State.raise_ramp (s : State) (k : NoticeKind) (i : Nat) (d : Detail) (live : Bool) (m : RampNo) : (s.raise k i d live).ramp m = s.ramp m := by simp [State.ramp]
@[simp] theorem State.raise_head (s : State) (k : NoticeKind) (i : Nat) (d : Detail) (live : Bool) (g : HeadNo) : (s.raise k i d live).head g = s.head g := by simp [State.head]
@[simp] theorem State.raise_chan (s : State) (k : NoticeKind) (i : Nat) (d : Detail) (live : Bool) (x : Chan) : (s.raise k i d live).chan x = s.chan x := by simp [State.chan]
@[simp] theorem State.raise_zone (s : State) (k : NoticeKind) (i : Nat) (d : Detail) (live : Bool) (y : ZoneNo) : (s.raise k i d live).zone y = s.zone y := by simp [State.zone]
@[simp] theorem State.raise_slot (s : State) (k : NoticeKind) (i : Nat) (d : Detail) (live : Bool) (j : SlotNo) : (s.raise k i d live).slot j = s.slot j := by simp [State.slot]

/-! ### liveClear -/

@[simp] theorem State.liveClear_pending (s : State) (k : NoticeKind) (i : Nat) : (s.liveClear k i).pending = s.pending := rfl
@[simp] theorem State.liveClear_count (s : State) (k : NoticeKind) (i : Nat) : (s.liveClear k i).count = s.count := rfl
@[simp] theorem State.liveClear_resetHeld (s : State) (k : NoticeKind) (i : Nat) : (s.liveClear k i).resetHeld = s.resetHeld := rfl
@[simp] theorem State.liveClear_permit (s : State) (k : NoticeKind) (i : Nat) : (s.liveClear k i).permit = s.permit := rfl
@[simp] theorem State.liveClear_takeover (s : State) (k : NoticeKind) (i : Nat) : (s.liveClear k i).takeover = s.takeover := rfl
@[simp] theorem State.liveClear_tieCount (s : State) (k : NoticeKind) (i : Nat) : (s.liveClear k i).tieCount = s.tieCount := rfl
@[simp] theorem State.liveClear_restartPending (s : State) (k : NoticeKind) (i : Nat) : (s.liveClear k i).restartPending = s.restartPending := rfl
@[simp] theorem State.liveClear_chans (s : State) (k : NoticeKind) (i : Nat) : (s.liveClear k i).chans = s.chans := rfl
@[simp] theorem State.liveClear_winNum (s : State) (k : NoticeKind) (i : Nat) : (s.liveClear k i).winNum = s.winNum := rfl
@[simp] theorem State.liveClear_elapsed (s : State) (k : NoticeKind) (i : Nat) : (s.liveClear k i).elapsed = s.elapsed := rfl
@[simp] theorem State.liveClear_settings (s : State) (k : NoticeKind) (i : Nat) : (s.liveClear k i).settings = s.settings := rfl
@[simp] theorem State.liveClear_pendSettings (s : State) (k : NoticeKind) (i : Nat) : (s.liveClear k i).pendSettings = s.pendSettings := rfl
@[simp] theorem State.liveClear_lastClosed (s : State) (k : NoticeKind) (i : Nat) : (s.liveClear k i).lastClosed = s.lastClosed := rfl
@[simp] theorem State.liveClear_ramps (s : State) (k : NoticeKind) (i : Nat) : (s.liveClear k i).ramps = s.ramps := rfl
@[simp] theorem State.liveClear_heads (s : State) (k : NoticeKind) (i : Nat) : (s.liveClear k i).heads = s.heads := rfl
@[simp] theorem State.liveClear_zones (s : State) (k : NoticeKind) (i : Nat) : (s.liveClear k i).zones = s.zones := rfl
@[simp] theorem State.liveClear_bulletin (s : State) (k : NoticeKind) (i : Nat) : (s.liveClear k i).bulletin = s.bulletin := rfl
@[simp] theorem State.liveClear_transit (s : State) (k : NoticeKind) (i : Nat) : (s.liveClear k i).transit = s.transit := rfl
@[simp] theorem State.liveClear_stage (s : State) (k : NoticeKind) (i : Nat) : (s.liveClear k i).stage = s.stage := rfl
@[simp] theorem State.liveClear_slots (s : State) (k : NoticeKind) (i : Nat) : (s.liveClear k i).slots = s.slots := rfl
@[simp] theorem State.liveClear_store (s : State) (k : NoticeKind) (i : Nat) : (s.liveClear k i).store = s.store := rfl
@[simp] theorem State.liveClear_scan (s : State) (k : NoticeKind) (i : Nat) : (s.liveClear k i).scan = s.scan := rfl
@[simp] theorem State.liveClear_report (s : State) (k : NoticeKind) (i : Nat) : (s.liveClear k i).report = s.report := rfl

@[simp] theorem State.liveClear_ramp (s : State) (k : NoticeKind) (i : Nat) (m : RampNo) : (s.liveClear k i).ramp m = s.ramp m := by simp [State.ramp]
@[simp] theorem State.liveClear_head (s : State) (k : NoticeKind) (i : Nat) (g : HeadNo) : (s.liveClear k i).head g = s.head g := by simp [State.head]
@[simp] theorem State.liveClear_chan (s : State) (k : NoticeKind) (i : Nat) (x : Chan) : (s.liveClear k i).chan x = s.chan x := by simp [State.chan]
@[simp] theorem State.liveClear_zone (s : State) (k : NoticeKind) (i : Nat) (y : ZoneNo) : (s.liveClear k i).zone y = s.zone y := by simp [State.zone]
@[simp] theorem State.liveClear_slot (s : State) (k : NoticeKind) (i : Nat) (j : SlotNo) : (s.liveClear k i).slot j = s.slot j := by simp [State.slot]

/-! ### releaseAll -/

@[simp] theorem State.releaseAll_pending (s : State) (who : Referencer) : (s.releaseAll who).pending = s.pending := rfl
@[simp] theorem State.releaseAll_count (s : State) (who : Referencer) : (s.releaseAll who).count = s.count := rfl
@[simp] theorem State.releaseAll_resetHeld (s : State) (who : Referencer) : (s.releaseAll who).resetHeld = s.resetHeld := rfl
@[simp] theorem State.releaseAll_permit (s : State) (who : Referencer) : (s.releaseAll who).permit = s.permit := rfl
@[simp] theorem State.releaseAll_takeover (s : State) (who : Referencer) : (s.releaseAll who).takeover = s.takeover := rfl
@[simp] theorem State.releaseAll_tieCount (s : State) (who : Referencer) : (s.releaseAll who).tieCount = s.tieCount := rfl
@[simp] theorem State.releaseAll_loc (s : State) (who : Referencer) : (s.releaseAll who).loc = s.loc := rfl
@[simp] theorem State.releaseAll_centre (s : State) (who : Referencer) : (s.releaseAll who).centre = s.centre := rfl
@[simp] theorem State.releaseAll_restartPending (s : State) (who : Referencer) : (s.releaseAll who).restartPending = s.restartPending := rfl
@[simp] theorem State.releaseAll_winNum (s : State) (who : Referencer) : (s.releaseAll who).winNum = s.winNum := rfl
@[simp] theorem State.releaseAll_elapsed (s : State) (who : Referencer) : (s.releaseAll who).elapsed = s.elapsed := rfl
@[simp] theorem State.releaseAll_settings (s : State) (who : Referencer) : (s.releaseAll who).settings = s.settings := rfl
@[simp] theorem State.releaseAll_pendSettings (s : State) (who : Referencer) : (s.releaseAll who).pendSettings = s.pendSettings := rfl
@[simp] theorem State.releaseAll_lastClosed (s : State) (who : Referencer) : (s.releaseAll who).lastClosed = s.lastClosed := rfl
@[simp] theorem State.releaseAll_ramps (s : State) (who : Referencer) : (s.releaseAll who).ramps = s.ramps := rfl
@[simp] theorem State.releaseAll_heads (s : State) (who : Referencer) : (s.releaseAll who).heads = s.heads := rfl
@[simp] theorem State.releaseAll_zones (s : State) (who : Referencer) : (s.releaseAll who).zones = s.zones := rfl
@[simp] theorem State.releaseAll_bulletin (s : State) (who : Referencer) : (s.releaseAll who).bulletin = s.bulletin := rfl
@[simp] theorem State.releaseAll_transit (s : State) (who : Referencer) : (s.releaseAll who).transit = s.transit := rfl
@[simp] theorem State.releaseAll_stage (s : State) (who : Referencer) : (s.releaseAll who).stage = s.stage := rfl
@[simp] theorem State.releaseAll_slots (s : State) (who : Referencer) : (s.releaseAll who).slots = s.slots := rfl
@[simp] theorem State.releaseAll_store (s : State) (who : Referencer) : (s.releaseAll who).store = s.store := rfl
@[simp] theorem State.releaseAll_scan (s : State) (who : Referencer) : (s.releaseAll who).scan = s.scan := rfl
@[simp] theorem State.releaseAll_report (s : State) (who : Referencer) : (s.releaseAll who).report = s.report := rfl

@[simp] theorem State.releaseAll_ramp (s : State) (who : Referencer) (m : RampNo) : (s.releaseAll who).ramp m = s.ramp m := by simp [State.ramp]
@[simp] theorem State.releaseAll_head (s : State) (who : Referencer) (g : HeadNo) : (s.releaseAll who).head g = s.head g := by simp [State.head]
@[simp] theorem State.releaseAll_zone (s : State) (who : Referencer) (y : ZoneNo) : (s.releaseAll who).zone y = s.zone y := by simp [State.zone]
@[simp] theorem State.releaseAll_slot (s : State) (who : Referencer) (j : SlotNo) : (s.releaseAll who).slot j = s.slot j := by simp [State.slot]
@[simp] theorem State.releaseAll_link (s : State) (who : Referencer) (l : Link) : (s.releaseAll who).link l = s.link l := by cases l <;> rfl

/-! ### rampNotice -/

@[simp] theorem State.rampNotice_pending (s : State) (n : RampNo) (cause : RampCause) : (s.rampNotice n cause).pending = s.pending := rfl
@[simp] theorem State.rampNotice_count (s : State) (n : RampNo) (cause : RampCause) : (s.rampNotice n cause).count = s.count := rfl
@[simp] theorem State.rampNotice_resetHeld (s : State) (n : RampNo) (cause : RampCause) : (s.rampNotice n cause).resetHeld = s.resetHeld := rfl
@[simp] theorem State.rampNotice_permit (s : State) (n : RampNo) (cause : RampCause) : (s.rampNotice n cause).permit = s.permit := rfl
@[simp] theorem State.rampNotice_takeover (s : State) (n : RampNo) (cause : RampCause) : (s.rampNotice n cause).takeover = s.takeover := rfl
@[simp] theorem State.rampNotice_tieCount (s : State) (n : RampNo) (cause : RampCause) : (s.rampNotice n cause).tieCount = s.tieCount := rfl
@[simp] theorem State.rampNotice_restartPending (s : State) (n : RampNo) (cause : RampCause) : (s.rampNotice n cause).restartPending = s.restartPending := rfl
@[simp] theorem State.rampNotice_chans (s : State) (n : RampNo) (cause : RampCause) : (s.rampNotice n cause).chans = s.chans := rfl
@[simp] theorem State.rampNotice_winNum (s : State) (n : RampNo) (cause : RampCause) : (s.rampNotice n cause).winNum = s.winNum := rfl
@[simp] theorem State.rampNotice_elapsed (s : State) (n : RampNo) (cause : RampCause) : (s.rampNotice n cause).elapsed = s.elapsed := rfl
@[simp] theorem State.rampNotice_settings (s : State) (n : RampNo) (cause : RampCause) : (s.rampNotice n cause).settings = s.settings := rfl
@[simp] theorem State.rampNotice_pendSettings (s : State) (n : RampNo) (cause : RampCause) : (s.rampNotice n cause).pendSettings = s.pendSettings := rfl
@[simp] theorem State.rampNotice_lastClosed (s : State) (n : RampNo) (cause : RampCause) : (s.rampNotice n cause).lastClosed = s.lastClosed := rfl
@[simp] theorem State.rampNotice_ramps (s : State) (n : RampNo) (cause : RampCause) : (s.rampNotice n cause).ramps = s.ramps := rfl
@[simp] theorem State.rampNotice_heads (s : State) (n : RampNo) (cause : RampCause) : (s.rampNotice n cause).heads = s.heads := rfl
@[simp] theorem State.rampNotice_zones (s : State) (n : RampNo) (cause : RampCause) : (s.rampNotice n cause).zones = s.zones := rfl
@[simp] theorem State.rampNotice_bulletin (s : State) (n : RampNo) (cause : RampCause) : (s.rampNotice n cause).bulletin = s.bulletin := rfl
@[simp] theorem State.rampNotice_transit (s : State) (n : RampNo) (cause : RampCause) : (s.rampNotice n cause).transit = s.transit := rfl
@[simp] theorem State.rampNotice_stage (s : State) (n : RampNo) (cause : RampCause) : (s.rampNotice n cause).stage = s.stage := rfl
@[simp] theorem State.rampNotice_slots (s : State) (n : RampNo) (cause : RampCause) : (s.rampNotice n cause).slots = s.slots := rfl
@[simp] theorem State.rampNotice_store (s : State) (n : RampNo) (cause : RampCause) : (s.rampNotice n cause).store = s.store := rfl
@[simp] theorem State.rampNotice_scan (s : State) (n : RampNo) (cause : RampCause) : (s.rampNotice n cause).scan = s.scan := rfl
@[simp] theorem State.rampNotice_report (s : State) (n : RampNo) (cause : RampCause) : (s.rampNotice n cause).report = s.report := rfl

@[simp] theorem State.rampNotice_ramp (s : State) (n : RampNo) (cause : RampCause) (m : RampNo) : (s.rampNotice n cause).ramp m = s.ramp m := by simp [State.ramp]
@[simp] theorem State.rampNotice_head (s : State) (n : RampNo) (cause : RampCause) (g : HeadNo) : (s.rampNotice n cause).head g = s.head g := by simp [State.head]
@[simp] theorem State.rampNotice_chan (s : State) (n : RampNo) (cause : RampCause) (x : Chan) : (s.rampNotice n cause).chan x = s.chan x := by simp [State.chan]
@[simp] theorem State.rampNotice_zone (s : State) (n : RampNo) (cause : RampCause) (y : ZoneNo) : (s.rampNotice n cause).zone y = s.zone y := by simp [State.zone]
@[simp] theorem State.rampNotice_slot (s : State) (n : RampNo) (cause : RampCause) (j : SlotNo) : (s.rampNotice n cause).slot j = s.slot j := by simp [State.slot]

/-! ### forgetEmpty -/

@[simp] theorem State.forgetEmpty_pending (s : State) (n : RampNo) : (s.forgetEmpty n).pending = s.pending := rfl
@[simp] theorem State.forgetEmpty_count (s : State) (n : RampNo) : (s.forgetEmpty n).count = s.count := rfl
@[simp] theorem State.forgetEmpty_resetHeld (s : State) (n : RampNo) : (s.forgetEmpty n).resetHeld = s.resetHeld := rfl
@[simp] theorem State.forgetEmpty_permit (s : State) (n : RampNo) : (s.forgetEmpty n).permit = s.permit := rfl
@[simp] theorem State.forgetEmpty_takeover (s : State) (n : RampNo) : (s.forgetEmpty n).takeover = s.takeover := rfl
@[simp] theorem State.forgetEmpty_tieCount (s : State) (n : RampNo) : (s.forgetEmpty n).tieCount = s.tieCount := rfl
@[simp] theorem State.forgetEmpty_loc (s : State) (n : RampNo) : (s.forgetEmpty n).loc = s.loc := rfl
@[simp] theorem State.forgetEmpty_centre (s : State) (n : RampNo) : (s.forgetEmpty n).centre = s.centre := rfl
@[simp] theorem State.forgetEmpty_restartPending (s : State) (n : RampNo) : (s.forgetEmpty n).restartPending = s.restartPending := rfl
@[simp] theorem State.forgetEmpty_chans (s : State) (n : RampNo) : (s.forgetEmpty n).chans = s.chans := rfl
@[simp] theorem State.forgetEmpty_winNum (s : State) (n : RampNo) : (s.forgetEmpty n).winNum = s.winNum := rfl
@[simp] theorem State.forgetEmpty_elapsed (s : State) (n : RampNo) : (s.forgetEmpty n).elapsed = s.elapsed := rfl
@[simp] theorem State.forgetEmpty_settings (s : State) (n : RampNo) : (s.forgetEmpty n).settings = s.settings := rfl
@[simp] theorem State.forgetEmpty_pendSettings (s : State) (n : RampNo) : (s.forgetEmpty n).pendSettings = s.pendSettings := rfl
@[simp] theorem State.forgetEmpty_lastClosed (s : State) (n : RampNo) : (s.forgetEmpty n).lastClosed = s.lastClosed := rfl
@[simp] theorem State.forgetEmpty_heads (s : State) (n : RampNo) : (s.forgetEmpty n).heads = s.heads := rfl
@[simp] theorem State.forgetEmpty_zones (s : State) (n : RampNo) : (s.forgetEmpty n).zones = s.zones := rfl
@[simp] theorem State.forgetEmpty_bulletin (s : State) (n : RampNo) : (s.forgetEmpty n).bulletin = s.bulletin := rfl
@[simp] theorem State.forgetEmpty_transit (s : State) (n : RampNo) : (s.forgetEmpty n).transit = s.transit := rfl
@[simp] theorem State.forgetEmpty_stage (s : State) (n : RampNo) : (s.forgetEmpty n).stage = s.stage := rfl
@[simp] theorem State.forgetEmpty_slots (s : State) (n : RampNo) : (s.forgetEmpty n).slots = s.slots := rfl
@[simp] theorem State.forgetEmpty_store (s : State) (n : RampNo) : (s.forgetEmpty n).store = s.store := rfl
@[simp] theorem State.forgetEmpty_scan (s : State) (n : RampNo) : (s.forgetEmpty n).scan = s.scan := rfl
@[simp] theorem State.forgetEmpty_report (s : State) (n : RampNo) : (s.forgetEmpty n).report = s.report := rfl

@[simp] theorem State.forgetEmpty_head (s : State) (n : RampNo) (g : HeadNo) : (s.forgetEmpty n).head g = s.head g := by simp [State.head]
@[simp] theorem State.forgetEmpty_chan (s : State) (n : RampNo) (x : Chan) : (s.forgetEmpty n).chan x = s.chan x := by simp [State.chan]
@[simp] theorem State.forgetEmpty_zone (s : State) (n : RampNo) (y : ZoneNo) : (s.forgetEmpty n).zone y = s.zone y := by simp [State.zone]
@[simp] theorem State.forgetEmpty_slot (s : State) (n : RampNo) (j : SlotNo) : (s.forgetEmpty n).slot j = s.slot j := by simp [State.slot]
@[simp] theorem State.forgetEmpty_link (s : State) (n : RampNo) (l : Link) : (s.forgetEmpty n).link l = s.link l := by cases l <;> rfl

/-! ### respond -/

@[simp] theorem State.respond_pending (s : State) (l : Link) (code : Byte) (r : Reply) : (s.respond l code r).pending = s.pending := by cases l <;> rfl
@[simp] theorem State.respond_count (s : State) (l : Link) (code : Byte) (r : Reply) : (s.respond l code r).count = s.count := by cases l <;> rfl
@[simp] theorem State.respond_resetHeld (s : State) (l : Link) (code : Byte) (r : Reply) : (s.respond l code r).resetHeld = s.resetHeld := by cases l <;> rfl
@[simp] theorem State.respond_permit (s : State) (l : Link) (code : Byte) (r : Reply) : (s.respond l code r).permit = s.permit := by cases l <;> rfl
@[simp] theorem State.respond_takeover (s : State) (l : Link) (code : Byte) (r : Reply) : (s.respond l code r).takeover = s.takeover := by cases l <;> rfl
@[simp] theorem State.respond_tieCount (s : State) (l : Link) (code : Byte) (r : Reply) : (s.respond l code r).tieCount = s.tieCount := by cases l <;> rfl
@[simp] theorem State.respond_restartPending (s : State) (l : Link) (code : Byte) (r : Reply) : (s.respond l code r).restartPending = s.restartPending := by cases l <;> rfl
@[simp] theorem State.respond_chans (s : State) (l : Link) (code : Byte) (r : Reply) : (s.respond l code r).chans = s.chans := by cases l <;> rfl
@[simp] theorem State.respond_winNum (s : State) (l : Link) (code : Byte) (r : Reply) : (s.respond l code r).winNum = s.winNum := by cases l <;> rfl
@[simp] theorem State.respond_elapsed (s : State) (l : Link) (code : Byte) (r : Reply) : (s.respond l code r).elapsed = s.elapsed := by cases l <;> rfl
@[simp] theorem State.respond_settings (s : State) (l : Link) (code : Byte) (r : Reply) : (s.respond l code r).settings = s.settings := by cases l <;> rfl
@[simp] theorem State.respond_pendSettings (s : State) (l : Link) (code : Byte) (r : Reply) : (s.respond l code r).pendSettings = s.pendSettings := by cases l <;> rfl
@[simp] theorem State.respond_lastClosed (s : State) (l : Link) (code : Byte) (r : Reply) : (s.respond l code r).lastClosed = s.lastClosed := by cases l <;> rfl
@[simp] theorem State.respond_ramps (s : State) (l : Link) (code : Byte) (r : Reply) : (s.respond l code r).ramps = s.ramps := by cases l <;> rfl
@[simp] theorem State.respond_heads (s : State) (l : Link) (code : Byte) (r : Reply) : (s.respond l code r).heads = s.heads := by cases l <;> rfl
@[simp] theorem State.respond_zones (s : State) (l : Link) (code : Byte) (r : Reply) : (s.respond l code r).zones = s.zones := by cases l <;> rfl
@[simp] theorem State.respond_bulletin (s : State) (l : Link) (code : Byte) (r : Reply) : (s.respond l code r).bulletin = s.bulletin := by cases l <;> rfl
@[simp] theorem State.respond_transit (s : State) (l : Link) (code : Byte) (r : Reply) : (s.respond l code r).transit = s.transit := by cases l <;> rfl
@[simp] theorem State.respond_stage (s : State) (l : Link) (code : Byte) (r : Reply) : (s.respond l code r).stage = s.stage := by cases l <;> rfl
@[simp] theorem State.respond_slots (s : State) (l : Link) (code : Byte) (r : Reply) : (s.respond l code r).slots = s.slots := by cases l <;> rfl
@[simp] theorem State.respond_store (s : State) (l : Link) (code : Byte) (r : Reply) : (s.respond l code r).store = s.store := by cases l <;> rfl
@[simp] theorem State.respond_scan (s : State) (l : Link) (code : Byte) (r : Reply) : (s.respond l code r).scan = s.scan := by cases l <;> rfl
@[simp] theorem State.respond_report (s : State) (l : Link) (code : Byte) (r : Reply) : (s.respond l code r).report = s.report := by cases l <;> rfl

@[simp] theorem State.respond_ramp (s : State) (l : Link) (code : Byte) (r : Reply) (m : RampNo) : (s.respond l code r).ramp m = s.ramp m := by simp [State.ramp]
@[simp] theorem State.respond_head (s : State) (l : Link) (code : Byte) (r : Reply) (g : HeadNo) : (s.respond l code r).head g = s.head g := by simp [State.head]
@[simp] theorem State.respond_chan (s : State) (l : Link) (code : Byte) (r : Reply) (x : Chan) : (s.respond l code r).chan x = s.chan x := by simp [State.chan]
@[simp] theorem State.respond_zone (s : State) (l : Link) (code : Byte) (r : Reply) (y : ZoneNo) : (s.respond l code r).zone y = s.zone y := by simp [State.zone]
@[simp] theorem State.respond_slot (s : State) (l : Link) (code : Byte) (r : Reply) (j : SlotNo) : (s.respond l code r).slot j = s.slot j := by simp [State.slot]

/-! ### overrunFrame -/

@[simp] theorem State.overrunFrame_pending (s : State) (l : Link) : (s.overrunFrame l).pending = s.pending := by cases l <;> rfl
@[simp] theorem State.overrunFrame_count (s : State) (l : Link) : (s.overrunFrame l).count = s.count := by cases l <;> rfl
@[simp] theorem State.overrunFrame_resetHeld (s : State) (l : Link) : (s.overrunFrame l).resetHeld = s.resetHeld := by cases l <;> rfl
@[simp] theorem State.overrunFrame_permit (s : State) (l : Link) : (s.overrunFrame l).permit = s.permit := by cases l <;> rfl
@[simp] theorem State.overrunFrame_takeover (s : State) (l : Link) : (s.overrunFrame l).takeover = s.takeover := by cases l <;> rfl
@[simp] theorem State.overrunFrame_tieCount (s : State) (l : Link) : (s.overrunFrame l).tieCount = s.tieCount := by cases l <;> rfl
@[simp] theorem State.overrunFrame_restartPending (s : State) (l : Link) : (s.overrunFrame l).restartPending = s.restartPending := by cases l <;> rfl
@[simp] theorem State.overrunFrame_chans (s : State) (l : Link) : (s.overrunFrame l).chans = s.chans := by cases l <;> rfl
@[simp] theorem State.overrunFrame_winNum (s : State) (l : Link) : (s.overrunFrame l).winNum = s.winNum := by cases l <;> rfl
@[simp] theorem State.overrunFrame_elapsed (s : State) (l : Link) : (s.overrunFrame l).elapsed = s.elapsed := by cases l <;> rfl
@[simp] theorem State.overrunFrame_settings (s : State) (l : Link) : (s.overrunFrame l).settings = s.settings := by cases l <;> rfl
@[simp] theorem State.overrunFrame_pendSettings (s : State) (l : Link) : (s.overrunFrame l).pendSettings = s.pendSettings := by cases l <;> rfl
@[simp] theorem State.overrunFrame_lastClosed (s : State) (l : Link) : (s.overrunFrame l).lastClosed = s.lastClosed := by cases l <;> rfl
@[simp] theorem State.overrunFrame_ramps (s : State) (l : Link) : (s.overrunFrame l).ramps = s.ramps := by cases l <;> rfl
@[simp] theorem State.overrunFrame_heads (s : State) (l : Link) : (s.overrunFrame l).heads = s.heads := by cases l <;> rfl
@[simp] theorem State.overrunFrame_zones (s : State) (l : Link) : (s.overrunFrame l).zones = s.zones := by cases l <;> rfl
@[simp] theorem State.overrunFrame_bulletin (s : State) (l : Link) : (s.overrunFrame l).bulletin = s.bulletin := by cases l <;> rfl
@[simp] theorem State.overrunFrame_transit (s : State) (l : Link) : (s.overrunFrame l).transit = s.transit := by cases l <;> rfl
@[simp] theorem State.overrunFrame_stage (s : State) (l : Link) : (s.overrunFrame l).stage = s.stage := by cases l <;> rfl
@[simp] theorem State.overrunFrame_slots (s : State) (l : Link) : (s.overrunFrame l).slots = s.slots := by cases l <;> rfl
@[simp] theorem State.overrunFrame_store (s : State) (l : Link) : (s.overrunFrame l).store = s.store := by cases l <;> rfl
@[simp] theorem State.overrunFrame_scan (s : State) (l : Link) : (s.overrunFrame l).scan = s.scan := by cases l <;> rfl
@[simp] theorem State.overrunFrame_report (s : State) (l : Link) : (s.overrunFrame l).report = s.report := by cases l <;> rfl

@[simp] theorem State.overrunFrame_ramp (s : State) (l : Link) (m : RampNo) : (s.overrunFrame l).ramp m = s.ramp m := by simp [State.ramp]
@[simp] theorem State.overrunFrame_head (s : State) (l : Link) (g : HeadNo) : (s.overrunFrame l).head g = s.head g := by simp [State.head]
@[simp] theorem State.overrunFrame_chan (s : State) (l : Link) (x : Chan) : (s.overrunFrame l).chan x = s.chan x := by simp [State.chan]
@[simp] theorem State.overrunFrame_zone (s : State) (l : Link) (y : ZoneNo) : (s.overrunFrame l).zone y = s.zone y := by simp [State.zone]
@[simp] theorem State.overrunFrame_slot (s : State) (l : Link) (j : SlotNo) : (s.overrunFrame l).slot j = s.slot j := by simp [State.slot]

/-! ### goodFrame -/

@[simp] theorem State.goodFrame_pending (s : State) (l : Link) : (s.goodFrame l).pending = s.pending := by unfold State.goodFrame; split <;> simp
@[simp] theorem State.goodFrame_count (s : State) (l : Link) : (s.goodFrame l).count = s.count := by unfold State.goodFrame; split <;> simp
@[simp] theorem State.goodFrame_resetHeld (s : State) (l : Link) : (s.goodFrame l).resetHeld = s.resetHeld := by unfold State.goodFrame; split <;> simp
@[simp] theorem State.goodFrame_permit (s : State) (l : Link) : (s.goodFrame l).permit = s.permit := by unfold State.goodFrame; split <;> simp
@[simp] theorem State.goodFrame_takeover (s : State) (l : Link) : (s.goodFrame l).takeover = s.takeover := by unfold State.goodFrame; split <;> simp
@[simp] theorem State.goodFrame_tieCount (s : State) (l : Link) : (s.goodFrame l).tieCount = s.tieCount := by unfold State.goodFrame; split <;> simp
@[simp] theorem State.goodFrame_restartPending (s : State) (l : Link) : (s.goodFrame l).restartPending = s.restartPending := by unfold State.goodFrame; split <;> simp
@[simp] theorem State.goodFrame_chans (s : State) (l : Link) : (s.goodFrame l).chans = s.chans := by unfold State.goodFrame; split <;> simp
@[simp] theorem State.goodFrame_winNum (s : State) (l : Link) : (s.goodFrame l).winNum = s.winNum := by unfold State.goodFrame; split <;> simp
@[simp] theorem State.goodFrame_elapsed (s : State) (l : Link) : (s.goodFrame l).elapsed = s.elapsed := by unfold State.goodFrame; split <;> simp
@[simp] theorem State.goodFrame_settings (s : State) (l : Link) : (s.goodFrame l).settings = s.settings := by unfold State.goodFrame; split <;> simp
@[simp] theorem State.goodFrame_pendSettings (s : State) (l : Link) : (s.goodFrame l).pendSettings = s.pendSettings := by unfold State.goodFrame; split <;> simp
@[simp] theorem State.goodFrame_lastClosed (s : State) (l : Link) : (s.goodFrame l).lastClosed = s.lastClosed := by unfold State.goodFrame; split <;> simp
@[simp] theorem State.goodFrame_ramps (s : State) (l : Link) : (s.goodFrame l).ramps = s.ramps := by unfold State.goodFrame; split <;> simp
@[simp] theorem State.goodFrame_heads (s : State) (l : Link) : (s.goodFrame l).heads = s.heads := by unfold State.goodFrame; split <;> simp
@[simp] theorem State.goodFrame_zones (s : State) (l : Link) : (s.goodFrame l).zones = s.zones := by unfold State.goodFrame; split <;> simp
@[simp] theorem State.goodFrame_bulletin (s : State) (l : Link) : (s.goodFrame l).bulletin = s.bulletin := by unfold State.goodFrame; split <;> simp
@[simp] theorem State.goodFrame_transit (s : State) (l : Link) : (s.goodFrame l).transit = s.transit := by unfold State.goodFrame; split <;> simp
@[simp] theorem State.goodFrame_stage (s : State) (l : Link) : (s.goodFrame l).stage = s.stage := by unfold State.goodFrame; split <;> simp
@[simp] theorem State.goodFrame_slots (s : State) (l : Link) : (s.goodFrame l).slots = s.slots := by unfold State.goodFrame; split <;> simp
@[simp] theorem State.goodFrame_store (s : State) (l : Link) : (s.goodFrame l).store = s.store := by unfold State.goodFrame; split <;> simp
@[simp] theorem State.goodFrame_scan (s : State) (l : Link) : (s.goodFrame l).scan = s.scan := by unfold State.goodFrame; split <;> simp
@[simp] theorem State.goodFrame_report (s : State) (l : Link) : (s.goodFrame l).report = s.report := by unfold State.goodFrame; split <;> simp

@[simp] theorem State.goodFrame_ramp (s : State) (l : Link) (m : RampNo) : (s.goodFrame l).ramp m = s.ramp m := by simp [State.ramp]
@[simp] theorem State.goodFrame_head (s : State) (l : Link) (g : HeadNo) : (s.goodFrame l).head g = s.head g := by simp [State.head]
@[simp] theorem State.goodFrame_chan (s : State) (l : Link) (x : Chan) : (s.goodFrame l).chan x = s.chan x := by simp [State.chan]
@[simp] theorem State.goodFrame_zone (s : State) (l : Link) (y : ZoneNo) : (s.goodFrame l).zone y = s.zone y := by simp [State.zone]
@[simp] theorem State.goodFrame_slot (s : State) (l : Link) (j : SlotNo) : (s.goodFrame l).slot j = s.slot j := by simp [State.slot]

/-! ### writeHead -/

@[simp] theorem State.writeHead_pending (s : State) (h : HeadNo) (c : Head) : (s.writeHead h c).pending = s.pending := by unfold State.writeHead; simp only []; split <;> simp
@[simp] theorem State.writeHead_count (s : State) (h : HeadNo) (c : Head) : (s.writeHead h c).count = s.count := by unfold State.writeHead; simp only []; split <;> simp
@[simp] theorem State.writeHead_resetHeld (s : State) (h : HeadNo) (c : Head) : (s.writeHead h c).resetHeld = s.resetHeld := by unfold State.writeHead; simp only []; split <;> simp
@[simp] theorem State.writeHead_permit (s : State) (h : HeadNo) (c : Head) : (s.writeHead h c).permit = s.permit := by unfold State.writeHead; simp only []; split <;> simp
@[simp] theorem State.writeHead_takeover (s : State) (h : HeadNo) (c : Head) : (s.writeHead h c).takeover = s.takeover := by unfold State.writeHead; simp only []; split <;> simp
@[simp] theorem State.writeHead_tieCount (s : State) (h : HeadNo) (c : Head) : (s.writeHead h c).tieCount = s.tieCount := by unfold State.writeHead; simp only []; split <;> simp
@[simp] theorem State.writeHead_restartPending (s : State) (h : HeadNo) (c : Head) : (s.writeHead h c).restartPending = s.restartPending := by unfold State.writeHead; simp only []; split <;> simp
@[simp] theorem State.writeHead_chans (s : State) (h : HeadNo) (c : Head) : (s.writeHead h c).chans = s.chans := by unfold State.writeHead; simp only []; split <;> simp
@[simp] theorem State.writeHead_winNum (s : State) (h : HeadNo) (c : Head) : (s.writeHead h c).winNum = s.winNum := by unfold State.writeHead; simp only []; split <;> simp
@[simp] theorem State.writeHead_elapsed (s : State) (h : HeadNo) (c : Head) : (s.writeHead h c).elapsed = s.elapsed := by unfold State.writeHead; simp only []; split <;> simp
@[simp] theorem State.writeHead_settings (s : State) (h : HeadNo) (c : Head) : (s.writeHead h c).settings = s.settings := by unfold State.writeHead; simp only []; split <;> simp
@[simp] theorem State.writeHead_pendSettings (s : State) (h : HeadNo) (c : Head) : (s.writeHead h c).pendSettings = s.pendSettings := by unfold State.writeHead; simp only []; split <;> simp
@[simp] theorem State.writeHead_lastClosed (s : State) (h : HeadNo) (c : Head) : (s.writeHead h c).lastClosed = s.lastClosed := by unfold State.writeHead; simp only []; split <;> simp
@[simp] theorem State.writeHead_ramps (s : State) (h : HeadNo) (c : Head) : (s.writeHead h c).ramps = s.ramps := by unfold State.writeHead; simp only []; split <;> simp
@[simp] theorem State.writeHead_zones (s : State) (h : HeadNo) (c : Head) : (s.writeHead h c).zones = s.zones := by unfold State.writeHead; simp only []; split <;> simp
@[simp] theorem State.writeHead_bulletin (s : State) (h : HeadNo) (c : Head) : (s.writeHead h c).bulletin = s.bulletin := by unfold State.writeHead; simp only []; split <;> simp
@[simp] theorem State.writeHead_transit (s : State) (h : HeadNo) (c : Head) : (s.writeHead h c).transit = s.transit := by unfold State.writeHead; simp only []; split <;> simp
@[simp] theorem State.writeHead_stage (s : State) (h : HeadNo) (c : Head) : (s.writeHead h c).stage = s.stage := by unfold State.writeHead; simp only []; split <;> simp
@[simp] theorem State.writeHead_slots (s : State) (h : HeadNo) (c : Head) : (s.writeHead h c).slots = s.slots := by unfold State.writeHead; simp only []; split <;> simp
@[simp] theorem State.writeHead_store (s : State) (h : HeadNo) (c : Head) : (s.writeHead h c).store = s.store := by unfold State.writeHead; simp only []; split <;> simp
@[simp] theorem State.writeHead_scan (s : State) (h : HeadNo) (c : Head) : (s.writeHead h c).scan = s.scan := by unfold State.writeHead; simp only []; split <;> simp
@[simp] theorem State.writeHead_report (s : State) (h : HeadNo) (c : Head) : (s.writeHead h c).report = s.report := by unfold State.writeHead; simp only []; split <;> simp

@[simp] theorem State.writeHead_ramp (s : State) (h : HeadNo) (c : Head) (m : RampNo) : (s.writeHead h c).ramp m = s.ramp m := by simp [State.ramp]
@[simp] theorem State.writeHead_chan (s : State) (h : HeadNo) (c : Head) (x : Chan) : (s.writeHead h c).chan x = s.chan x := by simp [State.chan]
@[simp] theorem State.writeHead_zone (s : State) (h : HeadNo) (c : Head) (y : ZoneNo) : (s.writeHead h c).zone y = s.zone y := by simp [State.zone]
@[simp] theorem State.writeHead_slot (s : State) (h : HeadNo) (c : Head) (j : SlotNo) : (s.writeHead h c).slot j = s.slot j := by simp [State.slot]

/-! ### Reading back -/

theorem State.ramp_setRamp (s : State) (n m : RampNo) (r : Ramp) :
    (s.setRamp n r).ramp m = if m = n then r else s.ramp m := Table.get_set _ _ _ _

@[simp] theorem State.ramp_setRamp_same (s : State) (n : RampNo) (r : Ramp) : (s.setRamp n r).ramp n = r := by
  simp [State.ramp_setRamp]

theorem State.ramp_setRamp_other (s : State) {n m : RampNo} (r : Ramp) (h : m ≠ n) :
    (s.setRamp n r).ramp m = s.ramp m := by
  simp [State.ramp_setRamp, h]

theorem State.ramp_modRamp (s : State) (n m : RampNo) (f : Ramp → Ramp) :
    (s.modRamp n f).ramp m = if m = n then f (s.ramp n) else s.ramp m := Table.get_set _ _ _ _

@[simp] theorem State.ramp_modRamp_same (s : State) (n : RampNo) (f : Ramp → Ramp) :
    (s.modRamp n f).ramp n = f (s.ramp n) := by
  simp [State.ramp_modRamp]

theorem State.ramp_modRamp_other (s : State) {n m : RampNo} (f : Ramp → Ramp) (h : m ≠ n) :
    (s.modRamp n f).ramp m = s.ramp m := by
  simp [State.ramp_modRamp, h]

theorem State.head_setHead (s : State) (h g : HeadNo) (c : Head) :
    (s.setHead h c).head g = if g = h then c else s.head g := Table.get_set _ _ _ _

@[simp] theorem State.head_setHead_same (s : State) (h : HeadNo) (c : Head) : (s.setHead h c).head h = c := by
  simp [State.head_setHead]

theorem State.head_setHead_other (s : State) {h g : HeadNo} (c : Head) (e : g ≠ h) : (s.setHead h c).head g = s.head g := by
  simp [State.head_setHead, e]

theorem State.chan_setChan (s : State) (c x : Chan) (r : Channel) :
    (s.setChan c r).chan x = if x = c then r else s.chan x := Table.get_set _ _ _ _

@[simp] theorem State.chan_setChan_same (s : State) (c : Chan) (r : Channel) : (s.setChan c r).chan c = r := by
  simp [State.chan_setChan]

theorem State.chan_modChan (s : State) (c x : Chan) (f : Channel → Channel) :
    (s.modChan c f).chan x = if x = c then f (s.chan c) else s.chan x := Table.get_set _ _ _ _

@[simp] theorem State.chan_modChan_same (s : State) (c : Chan) (f : Channel → Channel) :
    (s.modChan c f).chan c = f (s.chan c) := by
  simp [State.chan_modChan]

theorem State.zone_setZone (s : State) (z y : ZoneNo) (r : Zone) :
    (s.setZone z r).zone y = if y = z then r else s.zone y := Table.get_set _ _ _ _

@[simp] theorem State.zone_setZone_same (s : State) (z : ZoneNo) (r : Zone) : (s.setZone z r).zone z = r := by
  simp [State.zone_setZone]

theorem State.slot_setSlot (s : State) (k j : SlotNo) (r : Slot) :
    (s.setSlot k r).slot j = if j = k then r else s.slot j := Table.get_set _ _ _ _

@[simp] theorem State.slot_setSlot_same (s : State) (k : SlotNo) (r : Slot) : (s.setSlot k r).slot k = r := by
  simp [State.slot_setSlot]

@[simp] theorem State.link_setLink_same (s : State) (l : Link) (c : LinkCtx) : (s.setLink l c).link l = c := by
  cases l <;> rfl

theorem State.link_setLink_other (s : State) {l k : Link} (c : LinkCtx) (h : k ≠ l) : (s.setLink l c).link k = s.link k := by
  cases l <;> cases k <;> first | rfl | exact absurd rfl h

theorem State.chan_releaseAll (s : State) (who : Referencer) (c : Chan) :
    (s.releaseAll who).chan c = (s.chan c).release who := Table.get_map _ _ _

theorem State.link_raise (s : State) (k : NoticeKind) (i : Nat) (d : Detail) (live : Bool) (l : Link) :
    (s.raise k i d live).link l = { s.link l with set := raiseInto k i d live (s.link l).set } := by
  cases l <;> rfl

theorem State.link_liveClear (s : State) (k : NoticeKind) (i : Nat) (l : Link) :
    (s.liveClear k i).link l = { s.link l with set := liveClearIn k i (s.link l).set } := by
  cases l <;> rfl

/-! ### Heads and ramps -/

@[simp] theorem headRamp_headOf (n : RampNo) (k : LaneNo) : headRamp (headOf n k) = n := by
  apply Fin.ext
  simp only [headRamp, headOf]
  omega

@[simp] theorem headLane_headOf (n : RampNo) (k : LaneNo) : headLane (headOf n k) = k := by
  apply Fin.ext
  simp only [headLane, headOf]
  omega

@[simp] theorem headOf_parts (h : HeadNo) : headOf (headRamp h) (headLane h) = h := by
  apply Fin.ext
  simp only [headRamp, headLane, headOf]
  omega

theorem headOf_ne {h : HeadNo} {n : RampNo} (k : LaneNo) (e : headRamp h ≠ n) : h ≠ headOf n k := by
  intro he
  subst he
  simp at e

end Sys2Proof.Machine
end

