-- ==== Sys2Proof/Laws/Notices.lean ====
section
/-! SUPPORT. What a raise and a live clear do to the pending sets (R149, R150): the record entered, the records kept, the
order of the set. -/

namespace Sys2Proof.Machine

/-! ### One set -/

theorem raiseInto_enters (k : NoticeKind) (i : Nat) (d : Detail) (live : Bool) (set : List Notice) :
    ∃ r ∈ raiseInto k i d live set, r.kind = k ∧ r.subject = i ∧ r.detail = d ∧ r.live = live := by
  induction set with
  | nil => exact ⟨⟨k, i, false, live, d⟩, by simp [raiseInto]⟩
  | cons n rest ih =>
    unfold raiseInto
    split
    · next h => exact ⟨_, List.mem_cons_self, h.1, h.2, rfl, rfl⟩
    · split
      · exact ⟨_, List.mem_cons_self, rfl, rfl, rfl, rfl⟩
      · obtain ⟨r, hr, h⟩ := ih
        exact ⟨r, List.mem_cons_of_mem _ hr, h⟩

theorem mem_raiseInto_of_mem {k : NoticeKind} {i : Nat} {d : Detail} {live : Bool} {set : List Notice} {r : Notice}
    (h : r ∈ set) (ne : ¬(r.kind = k ∧ r.subject = i)) : r ∈ raiseInto k i d live set := by
  induction set with
  | nil => simp at h
  | cons n rest ih =>
    unfold raiseInto
    rcases List.mem_cons.1 h with rfl | h
    · rw [if_neg ne]
      split <;> simp
    · split
      · exact List.mem_cons_of_mem _ h
      · split
        · exact List.mem_cons_of_mem _ (List.mem_cons_of_mem _ h)
        · exact List.mem_cons_of_mem _ (ih h)

theorem of_mem_raiseInto {k : NoticeKind} {i : Nat} {d : Detail} {live : Bool} {set : List Notice} {r : Notice}
    (h : r ∈ raiseInto k i d live set) : r ∈ set ∨ (r.kind = k ∧ r.subject = i ∧ r.detail = d ∧ r.live = live) := by
  induction set with
  | nil => simp only [raiseInto, List.mem_singleton] at h; subst h; simp
  | cons n rest ih =>
    unfold raiseInto at h
    split at h
    · next e =>
      rcases List.mem_cons.1 h with rfl | h
      · exact .inr ⟨e.1, e.2, rfl, rfl⟩
      · exact .inl (List.mem_cons_of_mem _ h)
    · split at h
      · rcases List.mem_cons.1 h with rfl | h
        · simp
        · exact .inl h
      · rcases List.mem_cons.1 h with rfl | h
        · simp
        · exact (ih h).imp (List.mem_cons_of_mem _) id

theorem mem_liveClearIn_of_mem {k : NoticeKind} {i : Nat} {set : List Notice} {r : Notice}
    (h : r ∈ set) (ne : ¬(r.kind = k ∧ r.subject = i)) : r ∈ liveClearIn k i set :=
  List.mem_map.2 ⟨r, h, if_neg ne⟩

theorem of_mem_liveClearIn {k : NoticeKind} {i : Nat} {set : List Notice} {r : Notice} (h : r ∈ liveClearIn k i set) :
    ∃ m ∈ set, m.kind = r.kind ∧ m.subject = r.subject ∧ m.detail = r.detail ∧ (r.live = true → m.live = true) ∧
      (r.kind = k → r.subject = i → r.live = false) := by
  obtain ⟨m, hm, rfl⟩ := List.mem_map.1 h
  refine ⟨m, hm, ?_⟩
  split
  · simp
  · next ne => exact ⟨rfl, rfl, rfl, id, fun hk hi => absurd ⟨hk, hi⟩ ne⟩

/-! ### The order of a set (R152) -/

theorem noticesOrdered_cons_of {n : Notice} {rest : List Notice} (hs : n.subject < n.kind.subjects)
    (hk : ∀ m ∈ rest, noticeKey n.kind n.subject < noticeKey m.kind m.subject) (h : noticesOrdered rest) :
    noticesOrdered (n :: rest) := ⟨hs, hk, h⟩

theorem noticeKey_lt_or {k j : NoticeKind} {i m : Nat} (hi : i < k.subjects) (hm : m < j.subjects)
    (ne : ¬(j = k ∧ m = i)) (h : ¬ noticeKey k i < noticeKey j m) : noticeKey j m < noticeKey k i := by
  have e : noticeKey k i ≠ noticeKey j m := by
    intro e
    apply ne
    have hkb : k.subjects ≤ 64 := by cases k <;> decide
    have hjb : j.subjects ≤ 64 := by cases j <;> decide
    simp only [noticeKey] at e
    have hp : j.priority = k.priority := by omega
    refine ⟨?_, by omega⟩
    revert hp
    cases j <;> cases k <;> decide
  omega

theorem noticesOrdered_raiseInto {k : NoticeKind} {i : Nat} {d : Detail} {live : Bool} {set : List Notice}
    (hi : i < k.subjects) (h : noticesOrdered set) : noticesOrdered (raiseInto k i d live set) := by
  induction set with
  | nil => exact ⟨hi, by simp, trivial⟩
  | cons n rest ih =>
    obtain ⟨hs, hk, hr⟩ := h
    unfold raiseInto
    split
    · exact ⟨hs, hk, hr⟩
    · next ne =>
      split
      · next lt =>
        refine ⟨hi, ?_, hs, hk, hr⟩
        intro m hm
        rcases List.mem_cons.1 hm with rfl | hm
        · exact lt
        · exact Nat.lt_trans lt (hk m hm)
      · next lt =>
        refine ⟨hs, ?_, ih hr⟩
        intro m hm
        rcases of_mem_raiseInto hm with hm | ⟨mk, mi, _, _⟩
        · exact hk m hm
        · rw [mk, mi]
          exact noticeKey_lt_or hi hs ne lt

theorem noticesOrdered_liveClearIn {k : NoticeKind} {i : Nat} {set : List Notice} (h : noticesOrdered set) :
    noticesOrdered (liveClearIn k i set) := by
  induction set with
  | nil => trivial
  | cons n rest ih =>
    obtain ⟨hs, hk, hr⟩ := h
    have hh : ∀ m ∈ liveClearIn k i rest, noticeKey n.kind n.subject < noticeKey m.kind m.subject := by
      intro m hm
      obtain ⟨p, hp, ek, es, _⟩ := of_mem_liveClearIn hm
      rw [← ek, ← es]
      exact hk p hp
    change noticesOrdered ((if n.kind = k ∧ n.subject = i then { n with live := false } else n) :: liveClearIn k i rest)
    split
    · exact ⟨hs, hh, ih hr⟩
    · exact ⟨hs, hh, ih hr⟩

theorem noticesOrdered_filter {p : Notice → Bool} {set : List Notice} (h : noticesOrdered set) :
    noticesOrdered (set.filter p) := by
  induction set with
  | nil => trivial
  | cons n rest ih =>
    obtain ⟨hs, hk, hr⟩ := h
    rw [List.filter_cons]
    split
    · exact ⟨hs, fun m hm => hk m (List.mem_filter.1 hm).1, ih hr⟩
    · exact ih hr

/-! ### Both sets -/

theorem State.setsOrdered_iff (s : State) : s.setsOrdered ↔ ∀ l, noticesOrdered (s.link l).set :=
  ⟨fun h l => match l with
    | .loc => h.1
    | .centre => h.2,
    fun h => ⟨h .loc, h .centre⟩⟩

theorem State.setsOrdered.of_sets {s t : State} (h : s.setsOrdered) (e : ∀ l, (t.link l).set = (s.link l).set) :
    t.setsOrdered := by
  rw [State.setsOrdered_iff] at *
  intro l
  rw [e l]
  exact h l

theorem State.setsOrdered.raise {s : State} (h : s.setsOrdered) {k : NoticeKind} {i : Nat} (hi : i < k.subjects)
    (d : Detail) (live : Bool) : (s.raise k i d live).setsOrdered :=
  ⟨noticesOrdered_raiseInto hi h.1, noticesOrdered_raiseInto hi h.2⟩

theorem State.setsOrdered.liveClear {s : State} (h : s.setsOrdered) (k : NoticeKind) (i : Nat) :
    (s.liveClear k i).setsOrdered :=
  ⟨noticesOrdered_liveClearIn h.1, noticesOrdered_liveClearIn h.2⟩

theorem raised_raise (s : State) (k : NoticeKind) (i : Nat) (d : Detail) (live : Bool) :
    Raised (s.raise k i d live) k i d live := by
  intro l
  rw [State.link_raise]
  exact raiseInto_enters k i d live _

theorem Raised.of_sets {s t : State} {k : NoticeKind} {i : Nat} {d : Detail} {live : Bool} (h : Raised s k i d live)
    (e : ∀ l, (t.link l).set = (s.link l).set) : Raised t k i d live := by
  intro l
  rw [e l]
  exact h l

theorem Raised.raise {s : State} {k j : NoticeKind} {i m : Nat} {d e : Detail} {live f : Bool} (h : Raised s k i d live)
    (ne : ¬(k = j ∧ i = m)) : Raised (s.raise j m e f) k i d live := by
  intro l
  obtain ⟨r, hr, hk, hi, hd⟩ := h l
  rw [State.link_raise]
  exact ⟨r, mem_raiseInto_of_mem hr (by rw [hk, hi]; exact ne), hk, hi, hd⟩

theorem Raised.liveClear {s : State} {k j : NoticeKind} {i m : Nat} {d : Detail} {live : Bool} (h : Raised s k i d live)
    (ne : ¬(k = j ∧ i = m)) : Raised (s.liveClear j m) k i d live := by
  intro l
  obtain ⟨r, hr, hk, hi, hd⟩ := h l
  rw [State.link_liveClear]
  exact ⟨r, mem_liveClearIn_of_mem hr (by rw [hk, hi]; exact ne), hk, hi, hd⟩

theorem notLive_liveClear (s : State) (k : NoticeKind) (i : Nat) : NotLive (s.liveClear k i) k i := by
  intro l r hr hk hi
  rw [State.link_liveClear] at hr
  obtain ⟨m, hm, _, _, _, _, h⟩ := of_mem_liveClearIn hr
  exact h hk hi

theorem NotLive.of_sets {s t : State} {k : NoticeKind} {i : Nat} (h : NotLive s k i)
    (e : ∀ l, (t.link l).set = (s.link l).set) : NotLive t k i := by
  intro l
  rw [e l]
  exact h l

theorem NotLive.raise {s : State} {k j : NoticeKind} {i m : Nat} {d : Detail} {live : Bool} (h : NotLive s k i)
    (ne : live = false ∨ ¬(k = j ∧ i = m)) : NotLive (s.raise j m d live) k i := by
  intro l r hr hk hi
  rw [State.link_raise] at hr
  rcases of_mem_raiseInto hr with hr | ⟨ek, ei, _, el⟩
  · exact h l r hr hk hi
  · rcases ne with ne | ne
    · rw [el, ne]
    · exact absurd ⟨hk.symm.trans ek, hi.symm.trans ei⟩ ne

theorem NotLive.liveClear {s : State} {k : NoticeKind} {i : Nat} (h : NotLive s k i) (j : NoticeKind) (m : Nat) :
    NotLive (s.liveClear j m) k i := by
  intro l r hr hk hi
  rw [State.link_liveClear] at hr
  obtain ⟨p, hp, ek, ei, _, hl, _⟩ := of_mem_liveClearIn hr
  cases e : r.live with
  | false => rfl
  | true => exact absurd (hl e) (by rw [h l p hp (ek.trans hk) (ei.trans hi)]; simp)

/-- What a change of one head may do to the sets: nothing, or a live clear of that head's LAMP notice. -/
theorem Raised.writeHead {s : State} {k : NoticeKind} {i : Nat} {d : Detail} {live : Bool} (h : Raised s k i d live)
    (ne : k ≠ .lamp) (g : HeadNo) (c : Head) : Raised (s.writeHead g c) k i d live := by
  unfold State.writeHead
  simp only []
  split
  · exact Raised.liveClear (h.of_sets (fun l => by simp)) (fun e => ne e.1)
  · exact h.of_sets (fun l => by simp)

theorem NotLive.writeHead {s : State} {k : NoticeKind} {i : Nat} (h : NotLive s k i) (g : HeadNo) (c : Head) :
    NotLive (s.writeHead g c) k i := by
  unfold State.writeHead
  simp only []
  split
  · exact NotLive.liveClear (h.of_sets (fun l => by simp)) _ _
  · exact h.of_sets (fun l => by simp)

theorem State.setsOrdered.writeHead {s : State} (h : s.setsOrdered) (g : HeadNo) (c : Head) :
    (s.writeHead g c).setsOrdered := by
  unfold State.writeHead
  simp only []
  split
  · exact State.setsOrdered.liveClear (h.of_sets (fun l => by simp)) _ _
  · exact h.of_sets (fun l => by simp)

end Sys2Proof.Machine
end

