-- ==== Sys2Proof/Laws/Heads.lean ====
section
/-! SUPPORT. What writing a head does (R109, R118, R119): the fields it keeps, the other heads, an operation made on several
lanes. -/

namespace Sys2Proof.Machine

/-! ### reprove -/

theorem Head.reprove_eq (old new : Head) :
    old.reprove new = { new with mismatch := (old.reprove new).mismatch, standing := (old.reprove new).standing } := by
  unfold Head.reprove
  repeat' split
  all_goals rfl

@[simp] theorem Head.reprove_cycle (old new : Head) : (old.reprove new).cycle = new.cycle := by
  rw [Head.reprove_eq]
@[simp] theorem Head.reprove_sinceStart (old new : Head) : (old.reprove new).sinceStart = new.sinceStart := by
  rw [Head.reprove_eq]
@[simp] theorem Head.reprove_sinceEnd (old new : Head) : (old.reprove new).sinceEnd = new.sinceEnd := by
  rw [Head.reprove_eq]
@[simp] theorem Head.reprove_demandOn (old new : Head) : (old.reprove new).demandOn = new.demandOn := by
  rw [Head.reprove_eq]
@[simp] theorem Head.reprove_demandHealth (old new : Head) : (old.reprove new).demandHealth = new.demandHealth := by
  rw [Head.reprove_eq]
@[simp] theorem Head.reprove_demandOff (old new : Head) : (old.reprove new).demandOff = new.demandOff := by
  rw [Head.reprove_eq]
@[simp] theorem Head.reprove_demandTimed (old new : Head) : (old.reprove new).demandTimed = new.demandTimed := by
  rw [Head.reprove_eq]
@[simp] theorem Head.reprove_redPin (old new : Head) : (old.reprove new).redPin = new.redPin := by
  rw [Head.reprove_eq]
@[simp] theorem Head.reprove_greenPin (old new : Head) : (old.reprove new).greenPin = new.greenPin := by
  rw [Head.reprove_eq]
@[simp] theorem Head.reprove_redProved (old new : Head) : (old.reprove new).redProved = new.redProved := by
  rw [Head.reprove_eq]
@[simp] theorem Head.reprove_greenProved (old new : Head) : (old.reprove new).greenProved = new.greenProved := by
  rw [Head.reprove_eq]
@[simp] theorem Head.reprove_lastFault (old new : Head) : (old.reprove new).lastFault = new.lastFault := by
  rw [Head.reprove_eq]
@[simp] theorem Head.reprove_aspect (old new : Head) : (old.reprove new).aspect = new.aspect := by
  simp [Head.aspect]
@[simp] theorem Head.reprove_called (old new : Head) : (old.reprove new).called = new.called := by
  simp [Head.called, Head.demandGood]

@[simp] theorem Head.darkened_cycle (h : Head) : h.darkened.cycle = .dark := by
  unfold Head.darkened
  split <;> first | rfl | assumption

@[simp] theorem Head.darkened_aspect (h : Head) : h.darkened.aspect = .dark := by
  simp [Head.aspect, CycleState.aspect]

/-! ### writeHead -/

theorem State.head_writeHead (s : State) (h g : HeadNo) (c : Head) :
    (s.writeHead h c).head g = if g = h then (s.head h).reprove c else s.head g := by
  unfold State.writeHead
  simp only []
  split <;> simp [State.head_setHead]

@[simp] theorem State.head_writeHead_same (s : State) (h : HeadNo) (c : Head) :
    (s.writeHead h c).head h = (s.head h).reprove c := by
  simp [State.head_writeHead]

theorem State.head_writeHead_other (s : State) {h g : HeadNo} (c : Head) (e : g ≠ h) :
    (s.writeHead h c).head g = s.head g := by
  simp [State.head_writeHead, e]

theorem State.link_writeHead (s : State) (h : HeadNo) (c : Head) (l : Link) :
    (s.writeHead h c).link l = { s.link l with set := ((s.writeHead h c).link l).set } := by
  unfold State.writeHead
  simp only []
  split <;> simp [State.link_liveClear]

/-! ### Several lanes -/

theorem headOf_inj {n : RampNo} {j k : LaneNo} (h : headOf n j = headOf n k) : j = k := by
  have := congrArg headLane h
  simpa using this

theorem lanesTo_nodup (lanes : Nat) : (lanesTo lanes).Nodup :=
  List.Pairwise.filter _ (by decide)

theorem Plan.laneList_nodup (p : Plan) : p.laneList.Nodup := lanesTo_nodup _

theorem allLanes_nodup : (List.finRange 3).Nodup := by decide

@[simp] theorem State.eachLane_nil (s : State) (f : LaneNo → State → State) : s.eachLane [] f = s := rfl

@[simp] theorem State.eachLane_cons (s : State) (k : LaneNo) (lanes : List LaneNo) (f : LaneNo → State → State) :
    s.eachLane (k :: lanes) f = (f k s).eachLane lanes f := rfl

/-- What every lane's operation keeps, the whole keeps. -/
theorem State.eachLane_induct {P : State → Prop} {f : LaneNo → State → State} (hf : ∀ k t, P t → P (f k t))
    (lanes : List LaneNo) {s : State} (hs : P s) : P (s.eachLane lanes f) := by
  induction lanes generalizing s with
  | nil => exact hs
  | cons k rest ih => exact ih (hf k s hs)

/-- A lane operation that rewrites the lane's own head by `φ` and no other head, while `Q` holds and is kept. -/
theorem State.eachLane_heads {f : LaneNo → State → State} {φ : LaneNo → Head → Head} {n : RampNo} {Q : State → Prop}
    (hQ : ∀ k t, Q t → Q (f k t)) (hf : ∀ k t, Q t → (f k t).head (headOf n k) = φ k (t.head (headOf n k)))
    (ho : ∀ k t h, Q t → h ≠ headOf n k → (f k t).head h = t.head h) {lanes : List LaneNo} (nd : lanes.Nodup) {s : State}
    (hs : Q s) :
    (∀ j, (s.eachLane lanes f).head (headOf n j) = if j ∈ lanes then φ j (s.head (headOf n j)) else s.head (headOf n j)) ∧
    (∀ h, headRamp h ≠ n → (s.eachLane lanes f).head h = s.head h) := by
  induction lanes generalizing s with
  | nil => simp
  | cons k rest ih =>
    obtain ⟨hk, nd⟩ := List.nodup_cons.1 nd
    obtain ⟨h1, h2⟩ := ih nd (hQ k s hs)
    refine ⟨fun j => ?_, fun h e => ?_⟩
    · rw [State.eachLane_cons, h1]
      by_cases e : j = k
      · subst e
        simp [hk, hf j s hs]
      · simp [e, ho k s (headOf n j) hs (fun x => e (headOf_inj x))]
    · rw [State.eachLane_cons, h2 h e]
      exact ho k s h hs (headOf_ne k e)

/-- The same with nothing to keep. -/
theorem State.eachLane_heads' {f : LaneNo → State → State} {φ : LaneNo → Head → Head} {n : RampNo}
    (hf : ∀ k t, (f k t).head (headOf n k) = φ k (t.head (headOf n k)))
    (ho : ∀ k t h, h ≠ headOf n k → (f k t).head h = t.head h) {lanes : List LaneNo} (nd : lanes.Nodup) (s : State) :
    (∀ j, (s.eachLane lanes f).head (headOf n j) = if j ∈ lanes then φ j (s.head (headOf n j)) else s.head (headOf n j)) ∧
    (∀ h, headRamp h ≠ n → (s.eachLane lanes f).head h = s.head h) :=
  State.eachLane_heads (Q := fun _ => True) (fun _ _ _ => trivial) (fun k t _ => hf k t) (fun k t h _ e => ho k t h e) nd
    trivial

/-- A lane operation that writes the lane's own head and nothing else but the sets. -/
theorem State.head_eachLane_write {φ : LaneNo → Head → Head} {n : RampNo} {lanes : List LaneNo} (nd : lanes.Nodup)
    (s : State) (j : LaneNo) :
    (s.eachLane lanes fun k t => t.writeHead (headOf n k) (φ k (t.head (headOf n k)))).head (headOf n j) =
      if j ∈ lanes then (s.head (headOf n j)).reprove (φ j (s.head (headOf n j))) else s.head (headOf n j) :=
  (State.eachLane_heads' (φ := fun k h => h.reprove (φ k h)) (fun k t => by simp)
    (fun k t h e => State.head_writeHead_other t _ e) nd s).1 j

/-- The three heads of a ramp after `darken`. -/
theorem State.head_darken (s : State) (n : RampNo) (k : LaneNo) :
    (s.darken n).head (headOf n k) = (s.head (headOf n k)).reprove (s.head (headOf n k)).darkened := by
  have := State.head_eachLane_write (φ := fun _ h => h.darkened) (n := n) allLanes_nodup s k
  simpa [State.darken, State.darkenHead] using this

theorem State.darken_dark (s : State) (n : RampNo) (k : LaneNo) : ((s.darken n).head (headOf n k)).aspect = .dark := by
  simp [State.head_darken]

/-- The heads after the lanes 1 to L were taken to a cycle state. -/
theorem State.head_setLanes (s : State) (n : RampNo) (p : Plan) (c : CycleState) (k : LaneNo) :
    (s.setLanes n p c).head (headOf n k) =
      if k ∈ p.laneList then (s.head (headOf n k)).reprove { s.head (headOf n k) with cycle := c }
      else s.head (headOf n k) :=
  State.head_eachLane_write (φ := fun _ h => { h with cycle := c }) p.laneList_nodup s k

end Sys2Proof.Machine
end

