-- ==== Sys2Proof/Laws/Frame.lean ====
section
/-! SUPPORT. The frame relations of Safety compose, and each base operation satisfies them. -/

namespace Sys2Proof.Machine

/-! ### Composition -/

theorem RestSame.refl (s : State) : RestSame s s := by constructor <;> rfl

theorem RestSame.trans {s t u : State} (h : RestSame s t) (k : RestSame t u) : RestSame s u where
  pending := k.pending.trans h.pending
  count := k.count.trans h.count
  resetHeld := k.resetHeld.trans h.resetHeld
  permit := k.permit.trans h.permit
  takeover := k.takeover.trans h.takeover
  tieCount := k.tieCount.trans h.tieCount
  restartPending := k.restartPending.trans h.restartPending
  winNum := k.winNum.trans h.winNum
  elapsed := k.elapsed.trans h.elapsed
  settings := k.settings.trans h.settings
  pendSettings := k.pendSettings.trans h.pendSettings
  lastClosed := k.lastClosed.trans h.lastClosed
  bulletin := k.bulletin.trans h.bulletin
  transit := k.transit.trans h.transit
  stage := k.stage.trans h.stage
  slots := k.slots.trans h.slots
  store := k.store.trans h.store
  scan := k.scan.trans h.scan
  report := k.report.trans h.report

theorem OnlyLinks.refl (s : State) : OnlyLinks s s := ⟨RestSame.refl s, rfl, rfl, rfl, rfl⟩

theorem OnlyLinks.trans {s t u : State} (h : OnlyLinks s t) (k : OnlyLinks t u) : OnlyLinks s u :=
  ⟨h.toRestSame.trans k.toRestSame, k.chans.trans h.chans, k.ramps.trans h.ramps, k.heads.trans h.heads,
    k.zones.trans h.zones⟩

theorem OnlyRamp.refl (n : RampNo) (s : State) : OnlyRamp n s s :=
  ⟨RestSame.refl s, rfl, rfl, fun _ _ => rfl, fun _ _ => rfl⟩

theorem OnlyRamp.trans {n : RampNo} {s t u : State} (h : OnlyRamp n s t) (k : OnlyRamp n t u) : OnlyRamp n s u :=
  ⟨h.toRestSame.trans k.toRestSame, k.chans.trans h.chans, k.zones.trans h.zones,
    fun m e => (k.ramps m e).trans (h.ramps m e), fun g e => (k.heads g e).trans (h.heads g e)⟩

theorem OnlyLinks.onlyRamp {s t : State} (h : OnlyLinks s t) (n : RampNo) : OnlyRamp n s t :=
  ⟨h.toRestSame, h.chans, h.zones, fun _ _ => by simp [State.ramp, h.ramps], fun _ _ => by simp [State.head, h.heads]⟩

theorem OnlyRampAndRefs.refl (n : RampNo) (s : State) : OnlyRampAndRefs n s s :=
  ⟨RestSame.refl s, fun _ => rfl, fun _ => rfl, fun _ _ => rfl, fun _ _ => rfl⟩

theorem OnlyRampAndRefs.trans {n : RampNo} {s t u : State} (h : OnlyRampAndRefs n s t) (k : OnlyRampAndRefs n t u) :
    OnlyRampAndRefs n s u :=
  ⟨h.toRestSame.trans k.toRestSame, fun c => by rw [k.chans c, h.chans c], fun z => by rw [k.zones z, h.zones z],
    fun m e => (k.ramps m e).trans (h.ramps m e), fun g e => (k.heads g e).trans (h.heads g e)⟩

theorem OnlyRamp.refs {n : RampNo} {s t : State} (h : OnlyRamp n s t) : OnlyRampAndRefs n s t :=
  ⟨h.toRestSame, fun _ => by simp [State.chan, h.chans], fun _ => by simp [State.zone, h.zones], h.ramps, h.heads⟩

theorem OnlyLinks.refs {s t : State} (h : OnlyLinks s t) (n : RampNo) : OnlyRampAndRefs n s t := (h.onlyRamp n).refs

theorem SetsOnly.refl (s : State) : SetsOnly s s := fun _ => rfl

theorem SetsOnly.trans {s t u : State} (h : SetsOnly s t) (k : SetsOnly t u) : SetsOnly s u := by
  intro l
  rw [k l, h l]

theorem SetsOnly.of_links {s t : State} (h : ∀ l, t.link l = s.link l) : SetsOnly s t := by
  intro l
  rw [h l]

/-! ### The base operations -/

theorem RestSame.of_ramps (s : State) (r : Table Ramp 16) : RestSame s { s with ramps := r } := by constructor <;> rfl

theorem State.setLink_onlyLinks (s : State) (l : Link) (c : LinkCtx) : OnlyLinks s (s.setLink l c) := by
  constructor <;> first | (constructor <;> simp) | simp

theorem State.raise_onlyLinks (s : State) (k : NoticeKind) (i : Nat) (d : Detail) (live : Bool) :
    OnlyLinks s (s.raise k i d live) := by
  constructor <;> constructor <;> rfl

theorem State.liveClear_onlyLinks (s : State) (k : NoticeKind) (i : Nat) : OnlyLinks s (s.liveClear k i) := by
  constructor <;> constructor <;> rfl

theorem State.goodFrame_onlyLinks (s : State) (l : Link) : OnlyLinks s (s.goodFrame l) := by
  constructor <;> first | (constructor <;> simp) | simp

theorem State.respond_onlyLinks (s : State) (l : Link) (code : Byte) (r : Reply) : OnlyLinks s (s.respond l code r) := by
  constructor <;> first | (constructor <;> simp) | simp

theorem State.overrunFrame_onlyLinks (s : State) (l : Link) : OnlyLinks s (s.overrunFrame l) := by
  constructor <;> first | (constructor <;> simp) | simp

theorem State.raise_setsOnly (s : State) (k : NoticeKind) (i : Nat) (d : Detail) (live : Bool) :
    SetsOnly s (s.raise k i d live) := by
  intro l
  simp [State.link_raise]

theorem State.liveClear_setsOnly (s : State) (k : NoticeKind) (i : Nat) : SetsOnly s (s.liveClear k i) := by
  intro l
  simp [State.link_liveClear]

theorem State.writeHead_setsOnly (s : State) (h : HeadNo) (c : Head) : SetsOnly s (s.writeHead h c) :=
  fun l => State.link_writeHead s h c l

/-! ### Changes of one ramp -/

/-- Nothing but ramp `n` with its three heads differs, and the pending sets. -/
def RampOnly (n : RampNo) (s t : State) : Prop := OnlyRamp n s t ∧ SetsOnly s t

theorem RampOnly.refl (n : RampNo) (s : State) : RampOnly n s s := ⟨OnlyRamp.refl n s, SetsOnly.refl s⟩

theorem RampOnly.trans {n : RampNo} {s t u : State} (h : RampOnly n s t) (k : RampOnly n t u) : RampOnly n s u :=
  ⟨h.1.trans k.1, h.2.trans k.2⟩

theorem State.setRamp_rampOnly (s : State) (n : RampNo) (r : Ramp) : RampOnly n s (s.setRamp n r) :=
  ⟨⟨by constructor <;> rfl, rfl, rfl, fun _ e => State.ramp_setRamp_other s r e, fun _ _ => rfl⟩, SetsOnly.of_links (by simp)⟩

theorem State.modRamp_rampOnly (s : State) (n : RampNo) (f : Ramp → Ramp) : RampOnly n s (s.modRamp n f) :=
  State.setRamp_rampOnly s n _

theorem State.setHead_rampOnly (s : State) (h : HeadNo) (c : Head) : RampOnly (headRamp h) s (s.setHead h c) :=
  ⟨⟨by constructor <;> rfl, rfl, rfl, fun _ _ => rfl,
    fun _ e => State.head_setHead_other s c (fun x => e (congrArg headRamp x))⟩, SetsOnly.of_links (by simp)⟩

theorem State.setHead_lane_rampOnly (s : State) (n : RampNo) (k : LaneNo) (c : Head) :
    RampOnly n s (s.setHead (headOf n k) c) := by
  simpa using State.setHead_rampOnly s (headOf n k) c

theorem State.raise_rampOnly (s : State) (n : RampNo) (k : NoticeKind) (i : Nat) (d : Detail) (live : Bool) :
    RampOnly n s (s.raise k i d live) := ⟨(State.raise_onlyLinks s k i d live).onlyRamp n, State.raise_setsOnly s k i d live⟩

theorem State.rampNotice_rampOnly (s : State) (n m : RampNo) (cause : RampCause) : RampOnly n s (s.rampNotice m cause) :=
  State.raise_rampOnly s n _ _ _ _

theorem State.liveClear_rampOnly (s : State) (n : RampNo) (k : NoticeKind) (i : Nat) : RampOnly n s (s.liveClear k i) :=
  ⟨(State.liveClear_onlyLinks s k i).onlyRamp n, State.liveClear_setsOnly s k i⟩

theorem State.writeHead_rampOnly (s : State) (h : HeadNo) (c : Head) : RampOnly (headRamp h) s (s.writeHead h c) :=
  ⟨⟨by constructor <;> simp, by simp, by simp, fun _ _ => by simp,
    fun _ e => State.head_writeHead_other s c (fun x => e (congrArg headRamp x))⟩, State.writeHead_setsOnly s h c⟩

theorem State.writeHead_lane_rampOnly (s : State) (n : RampNo) (k : LaneNo) (c : Head) :
    RampOnly n s (s.writeHead (headOf n k) c) := by
  simpa using State.writeHead_rampOnly s (headOf n k) c

theorem State.setCycle_rampOnly (s : State) (n : RampNo) (k : LaneNo) (c : CycleState) :
    RampOnly n s (s.setCycle (headOf n k) c) := State.writeHead_lane_rampOnly s n k _

theorem State.forgetEmpty_rampOnly (s : State) (n : RampNo) : RampOnly n s (s.forgetEmpty n) :=
  State.modRamp_rampOnly s n _

theorem State.eachLane_rampOnly {n : RampNo} {f : LaneNo → State → State} (hf : ∀ k t, RampOnly n t (f k t))
    (lanes : List LaneNo) (s : State) : RampOnly n s (s.eachLane lanes f) :=
  State.eachLane_induct (P := fun t => RampOnly n s t) (fun k t h => h.trans (hf k t)) lanes (RampOnly.refl n s)

/-! ### Changes of one ramp with its references -/

/-- Nothing but ramp `n` with its heads, references and memberships differs, and the pending sets. -/
def RefsOnly (n : RampNo) (s t : State) : Prop := OnlyRampAndRefs n s t ∧ SetsOnly s t

theorem RefsOnly.refl (n : RampNo) (s : State) : RefsOnly n s s := ⟨OnlyRampAndRefs.refl n s, SetsOnly.refl s⟩

theorem RefsOnly.trans {n : RampNo} {s t u : State} (h : RefsOnly n s t) (k : RefsOnly n t u) : RefsOnly n s u :=
  ⟨h.1.trans k.1, h.2.trans k.2⟩

theorem RampOnly.refs {n : RampNo} {s t : State} (h : RampOnly n s t) : RefsOnly n s t := ⟨h.1.refs, h.2⟩

/-! ### Many ramps -/

theorem State.eachRamp_induct {P : State → Prop} {f : RampNo → State → State} (hf : ∀ n t, P t → P (f n t)) {s : State}
    (hs : P s) : P (s.eachRamp f) := by
  unfold State.eachRamp
  generalize List.finRange 16 = l
  induction l generalizing s with
  | nil => exact hs
  | cons n rest ih => exact ih (hf n s hs)

/-- An operation made for each ramp, the one for ramp `n` leaving the others alone: each ramp's own operation is the one that
tells, from a state that agrees with the first on what it reads (`R`). -/
theorem State.eachRamp_at {f : RampNo → State → State} (hf : ∀ n t, RampOnly n t (f n t)) (s : State) (n : RampNo) :
    ∃ u v, s.eachRamp f = v ∧ u.ramp n = s.ramp n ∧ (∀ k, u.head (headOf n k) = s.head (headOf n k)) ∧
      RestSame s u ∧ u.chans = s.chans ∧ u.zones = s.zones ∧ SetsOnly s u ∧
      v.ramp n = (f n u).ramp n ∧ (∀ k, v.head (headOf n k) = (f n u).head (headOf n k)) := by
  have key : ∀ (l : List RampNo), l.Nodup → ∀ s : State,
      (n ∉ l → (l.foldl (fun t m => f m t) s).ramp n = s.ramp n ∧
        ∀ k, (l.foldl (fun t m => f m t) s).head (headOf n k) = s.head (headOf n k)) ∧
      (n ∈ l → ∃ u, u.ramp n = s.ramp n ∧ (∀ k, u.head (headOf n k) = s.head (headOf n k)) ∧ RestSame s u ∧
        u.chans = s.chans ∧ u.zones = s.zones ∧ SetsOnly s u ∧
        (l.foldl (fun t m => f m t) s).ramp n = (f n u).ramp n ∧
        ∀ k, (l.foldl (fun t m => f m t) s).head (headOf n k) = (f n u).head (headOf n k)) := by
    intro l
    induction l with
    | nil => intro _ s; simp
    | cons m rest ih =>
      intro nd s
      obtain ⟨hm, nd⟩ := List.nodup_cons.1 nd
      obtain ⟨h1, h2⟩ := ih nd (f m s)
      have ho := (hf m s).1
      refine ⟨fun hn => ?_, fun hn => ?_⟩
      · have e : n ≠ m := fun x => hn (by simp [x])
        have hr : n ∉ rest := fun x => hn (List.mem_cons_of_mem _ x)
        refine ⟨(h1 hr).1.trans (ho.ramps n e), fun k => ((h1 hr).2 k).trans (ho.heads _ (by simpa using e))⟩
      · by_cases e : n = m
        · subst e
          exact ⟨s, rfl, fun _ => rfl, RestSame.refl s, rfl, rfl, SetsOnly.refl s, (h1 hm).1, (h1 hm).2⟩
        · have hr : n ∈ rest := by
            rcases List.mem_cons.1 hn with x | x
            · exact absurd x e
            · exact x
          obtain ⟨u, a, b, c, d, g, x, y, z⟩ := h2 hr
          exact ⟨u, a.trans (ho.ramps n e), fun k => (b k).trans (ho.heads _ (by simpa using e)), ho.toRestSame.trans c,
            d.trans ho.chans, g.trans ho.zones, (hf m s).2.trans x, y, z⟩
  obtain ⟨u, a, b, c, d, g, x, y, z⟩ := (key (List.finRange 16) (by decide) s).2 (by simp)
  exact ⟨u, _, rfl, a, b, c, d, g, x, y, z⟩

/-- What every ramp's operation leaves alone, the whole leaves alone. -/
theorem State.eachRamp_rest {f : RampNo → State → State} (hf : ∀ n t, RampOnly n t (f n t)) (s : State) :
    RestSame s (s.eachRamp f) ∧ (s.eachRamp f).chans = s.chans ∧ (s.eachRamp f).zones = s.zones ∧
      SetsOnly s (s.eachRamp f) :=
  State.eachRamp_induct
    (P := fun t => RestSame s t ∧ t.chans = s.chans ∧ t.zones = s.zones ∧ SetsOnly s t)
    (fun n t h => ⟨h.1.trans (hf n t).1.toRestSame, (hf n t).1.chans.trans h.2.1, (hf n t).1.zones.trans h.2.2.1,
      h.2.2.2.trans (hf n t).2⟩)
    ⟨RestSame.refl s, rfl, rfl, SetsOnly.refl s⟩

end Sys2Proof.Machine
end

