-- ==== Sys2Proof/Laws/Ramps.lean ====
section
/-! SUPPORT. What each shared operation on a ramp and its lanes can change (01, 02, 06, 07). -/

namespace Sys2Proof.Machine

/-! ### The queue (06) -/

theorem State.tryFlushExit_rampOnly (s : State) (n : RampNo) : RampOnly n s (s.tryFlushExit n) := by
  unfold State.tryFlushExit
  split
  · exact ((State.modRamp_rampOnly _ n _).trans (State.rampNotice_rampOnly _ n n _)).trans
      (State.liveClear_rampOnly _ n _ _)
  · exact RampOnly.refl n s

/-- Without its conditions the flush exit does nothing. -/
theorem State.tryFlushExit_none {s : State} {n : RampNo} (h : (s.ramp n).flushExitMet = false) : s.tryFlushExit n = s := by
  simp [State.tryFlushExit, h]

theorem Ramp.flushExitMet_of_state {r : Ramp} (h : r.state ≠ .flushing) : r.flushExitMet = false := by
  unfold Ramp.flushExitMet
  split <;> simp [h]

/-- The flush exit writes the state alone. -/
theorem State.ramp_tryFlushExit (s : State) (n : RampNo) :
    (s.tryFlushExit n).ramp n =
      if (s.ramp n).flushExitMet then { s.ramp n with state := .metering } else s.ramp n := by
  unfold State.tryFlushExit
  split <;> simp [*]

@[simp] theorem State.head_tryFlushExit (s : State) (n : RampNo) (h : HeadNo) :
    (s.tryFlushExit n).head h = s.head h := by
  unfold State.tryFlushExit
  split <;> simp

@[simp] theorem State.heads_tryFlushExit (s : State) (n : RampNo) : (s.tryFlushExit n).heads = s.heads := by
  unfold State.tryFlushExit
  split <;> simp

theorem State.takeGreenStart_rampOnly (s : State) (n : RampNo) (k : LaneNo) : RampOnly n s (s.takeGreenStart n k) := by
  unfold State.takeGreenStart
  repeat' split
  · exact RampOnly.refl n s
  · exact RampOnly.refl n s
  · exact (State.modRamp_rampOnly _ n _).trans (State.tryFlushExit_rampOnly _ n)

@[simp] theorem State.head_takeGreenStart (s : State) (n : RampNo) (k : LaneNo) (h : HeadNo) :
    (s.takeGreenStart n k).head h = s.head h := by
  unfold State.takeGreenStart
  repeat' split
  all_goals simp

/-! ### The lane cycle (07) -/

theorem State.lightGreen_rampOnly (s : State) (n : RampNo) (k : LaneNo) :
    RampOnly n s (s.lightGreen (headOf n k)) := State.writeHead_lane_rampOnly s n k _

theorem State.greenStarts_rampOnly (s : State) (n : RampNo) (lanes : List LaneNo) :
    RampOnly n s (s.greenStarts n lanes) :=
  ((State.forgetEmpty_rampOnly s n).trans
    (State.eachLane_rampOnly (fun k t => State.lightGreen_rampOnly t n k) lanes _)).trans
    (State.eachLane_rampOnly (fun k t => State.takeGreenStart_rampOnly t n k) lanes _)

theorem State.head_eachGreenStart (s : State) (n : RampNo) (lanes : List LaneNo) (h : HeadNo) :
    (s.eachLane lanes fun k t => t.takeGreenStart n k).head h = s.head h :=
  State.eachLane_induct (P := fun t => t.head h = s.head h) (fun k t e => by rw [State.head_takeGreenStart, e]) lanes rfl

/-- The heads after a release: GREEN with the time since the last green start at 0 on its lanes, the others as they were. -/
theorem State.head_greenStarts (s : State) (n : RampNo) {lanes : List LaneNo} (nd : lanes.Nodup) (j : LaneNo) :
    (s.greenStarts n lanes).head (headOf n j) =
      if j ∈ lanes then
        (s.head (headOf n j)).reprove { s.head (headOf n j) with cycle := .green, sinceStart := 0 }
      else s.head (headOf n j) := by
  unfold State.greenStarts
  rw [State.head_eachGreenStart]
  have := State.head_eachLane_write (φ := fun _ h => { h with cycle := .green, sinceStart := 0 }) (n := n) nd
    (s.forgetEmpty n) j
  simpa [State.lightGreen] using this

theorem State.tryRelease_rampOnly (s : State) (n : RampNo) : RampOnly n s (s.tryRelease n) := by
  unfold State.tryRelease
  repeat' split
  · exact RampOnly.refl n s
  · exact State.greenStarts_rampOnly s n _
  · exact RampOnly.refl n s

theorem State.tryRelease_some {s : State} {n : RampNo} {p : Plan} (h : (s.ramp n).plan = some p) :
    s.tryRelease n =
      if (s.ramp n).cycling && !(s.lanesToRelease n p).isEmpty then s.greenStarts n (s.lanesToRelease n p) else s := by
  simp [State.tryRelease, h]

theorem State.tryRelease_idle {s : State} {n : RampNo} (h : (s.ramp n).cycling = false) : s.tryRelease n = s := by
  unfold State.tryRelease
  split <;> simp [h]

theorem State.lanesToRelease_nodup (s : State) (n : RampNo) (p : Plan) : (s.lanesToRelease n p).Nodup := by
  unfold State.lanesToRelease
  split
  · cases List.find? (s.releasable n p) p.laneList <;> simp
  · split
    · exact p.laneList_nodup
    · exact List.nodup_nil

/-- The heads after `tryRelease`: the released lanes GREEN, the others as they were. -/
theorem State.head_tryRelease {s : State} {n : RampNo} {p : Plan} (h : (s.ramp n).plan = some p) (j : LaneNo) :
    (s.tryRelease n).head (headOf n j) =
      if (s.ramp n).cycling = true ∧ j ∈ s.lanesToRelease n p then
        (s.head (headOf n j)).reprove { s.head (headOf n j) with cycle := .green, sinceStart := 0 }
      else s.head (headOf n j) := by
  rw [State.tryRelease_some h]
  split
  · next c =>
    simp only [Bool.and_eq_true] at c
    rw [State.head_greenStarts s n (State.lanesToRelease_nodup s n p)]
    simp [c.1]
  · next c =>
    split
    · next d =>
      exact absurd (by
        simp only [Bool.and_eq_true, Bool.not_eq_true', d.1, true_and]
        cases e : s.lanesToRelease n p with
        | nil => simp [e] at d
        | cons => rfl) c
    · rfl

theorem State.judgeLane_rampOnly (s : State) (n : RampNo) (p : Plan) (k : LaneNo) : RampOnly n s (s.judgeLane n p k) := by
  unfold State.judgeLane
  repeat' split
  all_goals first
    | exact RampOnly.refl n s
    | exact State.setCycle_rampOnly s n k _
    | exact (State.forgetEmpty_rampOnly s n).trans (State.setCycle_rampOnly _ n k _)

/-- A lane's comparison writes no more of the ramp record than the model's empty mark. -/
theorem State.ramp_judgeLane (s : State) (n : RampNo) (p : Plan) (k : LaneNo) :
    (s.judgeLane n p k).ramp n = { s.ramp n with emptyJudged := ((s.judgeLane n p k).ramp n).emptyJudged } := by
  unfold State.judgeLane
  repeat' split
  all_goals simp [State.setCycle, State.forgetEmpty]

/-- The lane's own head after its comparison (R111). -/
def Head.judged (h : Head) (interval minRed : Nat) : Head :=
  match h.cycle with
  | .hold => if h.ripe interval minRed then h.reprove { h with cycle := .ready } else h
  | .ready => if h.sinceStart < interval then h.reprove { h with cycle := .hold } else h
  | .dark => h
  | .green => h
  | .restGreen => h

theorem State.head_judgeLane (s : State) (n : RampNo) (p : Plan) (k : LaneNo) :
    (s.judgeLane n p k).head (headOf n k) = (s.head (headOf n k)).judged ((s.ramp n).interval k) p.timing.minRed := by
  unfold State.judgeLane Head.judged
  repeat' split
  all_goals simp_all [State.setCycle, State.forgetEmpty]

theorem State.head_judgeLane_other (s : State) (n : RampNo) (p : Plan) (k : LaneNo) {h : HeadNo} (e : h ≠ headOf n k) :
    (s.judgeLane n p k).head h = s.head h := by
  unfold State.judgeLane
  repeat' split
  all_goals simp [State.setCycle, State.head_writeHead_other, e, State.forgetEmpty]

theorem State.reportEmpty_rampOnly (s : State) (n : RampNo) : RampOnly n s (s.reportEmpty n) := by
  unfold State.reportEmpty
  split
  · exact State.modRamp_rampOnly s n _
  · exact RampOnly.refl n s

/-- A report of the empty judgement writes its two marks alone. -/
theorem State.ramp_reportEmpty (s : State) (n : RampNo) :
    (s.reportEmpty n).ramp n =
      if s.emptyDue n then { s.ramp n with emptyJudged := true, emptyPending := true } else s.ramp n := by
  unfold State.reportEmpty
  split <;> simp

@[simp] theorem State.head_reportEmpty (s : State) (n : RampNo) (h : HeadNo) : (s.reportEmpty n).head h = s.head h := by
  unfold State.reportEmpty
  split <;> simp

@[simp] theorem State.link_reportEmpty (s : State) (n : RampNo) (l : Link) : (s.reportEmpty n).link l = s.link l := by
  unfold State.reportEmpty
  split <;> simp

/-- Without its conditions, and while it stands, the judgement is not reported (R104). -/
theorem State.reportEmpty_none {s : State} {n : RampNo} (h : s.emptyDue n = false) : s.reportEmpty n = s := by
  simp [State.reportEmpty, h]

theorem State.takeInterval_rampOnly (s : State) (n : RampNo) : RampOnly n s (s.takeInterval n) := by
  unfold State.takeInterval
  repeat' split
  · exact RampOnly.refl n s
  · exact ((State.eachLane_rampOnly (fun k t => State.judgeLane_rampOnly t n _ k) _ _).trans
      (State.tryRelease_rampOnly _ n)).trans (State.reportEmpty_rampOnly _ n)
  · exact RampOnly.refl n s

theorem State.laneBecomesReady_rampOnly (s : State) (n : RampNo) (k : LaneNo) :
    RampOnly n s (s.laneBecomesReady n k) := by
  unfold State.laneBecomesReady
  split
  · exact RampOnly.refl n s
  · exact ((State.eachLane_rampOnly (fun k t => State.judgeLane_rampOnly t n _ k) _ _).trans
      (State.tryRelease_rampOnly _ n)).trans (State.reportEmpty_rampOnly _ n)

theorem State.finishGreen_rampOnly (s : State) (n : RampNo) (p : Plan) (k : LaneNo) :
    RampOnly n s (s.finishGreen n p k) := by
  unfold State.finishGreen
  split
  · exact State.writeHead_lane_rampOnly s n k _
  · exact RampOnly.refl n s

@[simp] theorem State.ramps_finishGreen (s : State) (n : RampNo) (p : Plan) (k : LaneNo) :
    (s.finishGreen n p k).ramps = s.ramps := by
  unfold State.finishGreen
  split <;> simp

/-- The head of a lane whose green may have run (R115). -/
def Head.finished (h : Head) (green : Nat) : Head :=
  if h.greenRun green then h.reprove { h with cycle := .hold, sinceEnd := 0 } else h

theorem State.head_finishGreen (s : State) (n : RampNo) (p : Plan) (k : LaneNo) :
    (s.finishGreen n p k).head (headOf n k) = (s.head (headOf n k)).finished p.timing.green := by
  unfold State.finishGreen Head.finished
  split <;> simp

theorem State.head_finishGreen_other (s : State) (n : RampNo) (p : Plan) (k : LaneNo) {h : HeadNo} (e : h ≠ headOf n k) :
    (s.finishGreen n p k).head h = s.head h := by
  unfold State.finishGreen
  split <;> simp [State.head_writeHead_other, e]

theorem Plan.lanesWith_nodup (p : Plan) (k : LaneNo) : (p.lanesWith k).Nodup := by
  unfold Plan.lanesWith
  split
  · simp
  · exact p.laneList_nodup

theorem State.endGreens_rampOnly (s : State) (n : RampNo) (k : LaneNo) : RampOnly n s (s.endGreens n k) := by
  unfold State.endGreens
  split
  · exact RampOnly.refl n s
  · exact State.eachLane_rampOnly (fun k t => State.finishGreen_rampOnly t n _ k) _ _

theorem State.takeDemand_rampOnly (s : State) (n : RampNo) (k : LaneNo) (on : Bool) :
    RampOnly n s (s.takeDemand n k on) := by
  unfold State.takeDemand
  simp only []
  split
  · exact (State.setHead_lane_rampOnly s n k _).trans (State.forgetEmpty_rampOnly _ n)
  · exact State.setHead_lane_rampOnly s n k _

theorem State.takeDemandHealth_rampOnly (s : State) (n : RampNo) (k : LaneNo) (h : Health) :
    RampOnly n s (s.takeDemandHealth n k h) := by
  unfold State.takeDemandHealth
  simp only []
  split
  · exact State.setHead_lane_rampOnly s n k _
  · exact (State.setHead_lane_rampOnly s n k _).trans (State.forgetEmpty_rampOnly _ n)

/-- The conditions of the empty judgement as R104 gives them. -/
theorem State.emptyHolds_iff {s : State} {n : RampNo} {p : Plan} (hp : (s.ramp n).plan = some p) :
    s.emptyHolds n = true ↔ s.AllClear n p := by
  simp only [State.emptyHolds, hp, State.AllClear, Ramp.cycling, Head.demandGood, Bool.and_eq_true, Bool.or_eq_true,
    decide_eq_true_eq, List.all_eq_true, and_assoc]

theorem State.emptyDue_iff {s : State} {n : RampNo} {p : Plan} (hp : (s.ramp n).plan = some p) :
    s.emptyDue n = true ↔ s.AllClear n p ∧ (s.ramp n).emptyJudged = false := by
  simp [State.emptyDue, State.emptyHolds_iff hp]

/-- What a report leaves, said as the statements say it. -/
theorem State.reportEmpty_reported {s : State} {n : RampNo} {p : Plan} (hp : (s.ramp n).plan = some p) :
    EmptyReported s (s.reportEmpty n) n p := by
  have e : (s.reportEmpty n).AllClear n p ↔ s.AllClear n p := by
    simp only [State.AllClear, State.head_reportEmpty, State.ramp_reportEmpty]
    split <;> exact Iff.rfl
  constructor
  · intro h j
    rw [State.ramp_reportEmpty, if_pos ((State.emptyDue_iff hp).2 ⟨e.1 h, j⟩)]
  · intro h
    rw [State.ramp_reportEmpty, if_neg]
    intro d
    obtain ⟨a, j⟩ := (State.emptyDue_iff hp).1 d
    rcases h with h | h
    · exact h (e.2 a)
    · rw [j] at h
      cases h

/-- With no judgement in transit there is none to take. -/
theorem State.takeEmpty_none {s : State} {n : RampNo} (h : (s.ramp n).emptyPending = false) : s.takeEmpty n = s := by
  simp [State.takeEmpty, h]

theorem State.takeEmpty_rampOnly (s : State) (n : RampNo) : RampOnly n s (s.takeEmpty n) := by
  unfold State.takeEmpty
  repeat' split
  · exact (State.modRamp_rampOnly s n _).trans (State.tryFlushExit_rampOnly _ n)
  · exact State.modRamp_rampOnly s n _
  · exact RampOnly.refl n s

/-! ### Transitions (01, 02) -/

theorem State.darken_rampOnly (s : State) (n : RampNo) : RampOnly n s (s.darken n) :=
  State.eachLane_rampOnly (fun k t => State.writeHead_lane_rampOnly t n k _) _ s

@[simp] theorem State.ramps_darken (s : State) (n : RampNo) : (s.darken n).ramps = s.ramps :=
  State.eachLane_induct (P := fun t => t.ramps = s.ramps) (fun k t e => by simp [State.darkenHead, e]) _ rfl

@[simp] theorem State.ramp_darken (s : State) (n m : RampNo) : (s.darken n).ramp m = s.ramp m := by simp [State.ramp]

theorem State.leaveRunning_rampOnly (s : State) (n : RampNo) : RampOnly n s (s.leaveRunning n) := by
  unfold State.leaveRunning
  simp only []
  split
  · exact (State.modRamp_rampOnly s n _).trans (State.liveClear_rampOnly _ n _ _)
  · exact State.modRamp_rampOnly s n _

theorem State.ramp_leaveRunning (s : State) (n : RampNo) :
    (s.leaveRunning n).ramp n = { (s.ramp n).installAmendment with emptyJudged := false } := by
  unfold State.leaveRunning
  simp only []
  split <;> simp

@[simp] theorem State.heads_leaveRunning (s : State) (n : RampNo) : (s.leaveRunning n).heads = s.heads := by
  unfold State.leaveRunning
  simp only []
  split <;> simp

@[simp] theorem State.head_leaveRunning (s : State) (n : RampNo) (h : HeadNo) :
    (s.leaveRunning n).head h = s.head h := by simp [State.head]

theorem State.leaveRunning_notLive {s : State} {n : RampNo} (h : (s.ramp n).state = .flushing) :
    NotLive (s.leaveRunning n) .flush n.val := by
  simp only [State.leaveRunning, h, if_true]
  exact notLive_liveClear _ _ _

/-- An installed amendment writes the plan, the effective max rate and the marks alone (R18). -/
theorem Ramp.installAmendment_eq (r : Ramp) :
    r.installAmendment = { r with
      plan := r.installAmendment.plan
      effMax := r.installAmendment.effMax
      trimmed := r.installAmendment.trimmed
      amendment := none } := by
  unfold Ramp.installAmendment
  split
  · rfl
  · rfl
  · next h => cases r; simp_all

@[simp] theorem Ramp.installAmendment_state (r : Ramp) : r.installAmendment.state = r.state := by
  rw [Ramp.installAmendment_eq]
@[simp] theorem Ramp.installAmendment_sub (r : Ramp) : r.installAmendment.sub = r.sub := by
  rw [Ramp.installAmendment_eq]
@[simp] theorem Ramp.installAmendment_retirePending (r : Ramp) :
    r.installAmendment.retirePending = r.retirePending := by rw [Ramp.installAmendment_eq]
@[simp] theorem Ramp.installAmendment_amendment (r : Ramp) : r.installAmendment.amendment = none := by
  rw [Ramp.installAmendment_eq]
@[simp] theorem Ramp.installAmendment_authority (r : Ramp) : r.installAmendment.authority = r.authority := by
  rw [Ramp.installAmendment_eq]
@[simp] theorem Ramp.installAmendment_override (r : Ramp) : r.installAmendment.override = r.override := by
  rw [Ramp.installAmendment_eq]
@[simp] theorem Ramp.installAmendment_applied (r : Ramp) : r.installAmendment.applied = r.applied := by
  rw [Ramp.installAmendment_eq]
@[simp] theorem Ramp.installAmendment_computed (r : Ramp) : r.installAmendment.computed = r.computed := by
  rw [Ramp.installAmendment_eq]
@[simp] theorem Ramp.installAmendment_limiting (r : Ramp) : r.installAmendment.limiting = r.limiting := by
  rw [Ramp.installAmendment_eq]
@[simp] theorem Ramp.installAmendment_intervals (r : Ramp) : r.installAmendment.intervals = r.intervals := by
  rw [Ramp.installAmendment_eq]
@[simp] theorem Ramp.installAmendment_q (r : Ramp) : r.installAmendment.q = r.q := by rw [Ramp.installAmendment_eq]
@[simp] theorem Ramp.installAmendment_contOff (r : Ramp) : r.installAmendment.contOff = r.contOff := by
  rw [Ramp.installAmendment_eq]
@[simp] theorem Ramp.installAmendment_stopped (r : Ramp) : r.installAmendment.stopped = r.stopped := by
  rw [Ramp.installAmendment_eq]

/-- An installed amendment keeps the layout and the timing, so the queue-end channel with them. -/
theorem Ramp.installAmendment_plan {r : Ramp} {p : Plan} (h : r.plan = some p) :
    ∃ u, r.installAmendment.plan = some u ∧ u.layout = p.layout ∧ u.timing = p.timing ∧
      u.queue = { p.queue with target := u.queue.target } := by
  unfold Ramp.installAmendment
  split
  · next a q _ hq =>
    rw [h] at hq
    cases hq
    exact ⟨_, rfl, rfl, rfl, rfl⟩
  · next hq => rw [h] at hq; cases hq
  · exact ⟨p, h, rfl, rfl, rfl⟩

theorem State.park_rampOnly (s : State) (n : RampNo) (stop : StopCause) (cause : RampCause) :
    RampOnly n s (s.park n stop cause) :=
  ((State.darken_rampOnly s n).trans (State.modRamp_rampOnly _ n _)).trans (State.rampNotice_rampOnly _ n n _)

theorem State.ramp_park (s : State) (n : RampNo) (stop : StopCause) (cause : RampCause) :
    (s.park n stop cause).ramp n =
      { s.ramp n with state := .parked, sub := none, subTimer := 0, closeTimer := 0, stopped := some stop } := by
  simp [State.park]

theorem State.park_dark (s : State) (n : RampNo) (stop : StopCause) (cause : RampCause) (k : LaneNo) :
    ((s.park n stop cause).head (headOf n k)).aspect = .dark := by
  simp [State.park, State.darken_dark]

theorem State.park_raised (s : State) (n : RampNo) (stop : StopCause) (cause : RampCause) :
    Raised (s.park n stop cause) .rampState n.val (.rampState .parked cause) false := by
  simpa [State.park, State.rampNotice] using raised_raise
    ((s.darken n).modRamp n fun r =>
      { r with state := .parked, sub := none, subTimer := 0, closeTimer := 0, stopped := some stop })
    .rampState n.val (.rampState .parked cause) false

theorem State.setLanes_rampOnly (s : State) (n : RampNo) (p : Plan) (c : CycleState) :
    RampOnly n s (s.setLanes n p c) := State.eachLane_rampOnly (fun k t => State.setCycle_rampOnly t n k c) _ s

@[simp] theorem State.ramps_setLanes (s : State) (n : RampNo) (p : Plan) (c : CycleState) :
    (s.setLanes n p c).ramps = s.ramps :=
  State.eachLane_induct (P := fun t => t.ramps = s.ramps) (fun k t e => by simp [State.setCycle, e]) _ rfl

@[simp] theorem State.ramp_setLanes (s : State) (n m : RampNo) (p : Plan) (c : CycleState) :
    (s.setLanes n p c).ramp m = s.ramp m := by simp [State.ramp]

theorem State.enterStartRed_rampOnly (s : State) (n : RampNo) (p : Plan) : RampOnly n s (s.enterStartRed n p) :=
  (State.modRamp_rampOnly s n _).trans (State.setLanes_rampOnly _ n p _)

theorem State.ramp_enterStartRed (s : State) (n : RampNo) (p : Plan) :
    (s.enterStartRed n p).ramp n = { s.ramp n with sub := some .startRed, subTimer := 0 } := by
  simp [State.enterStartRed]

theorem State.head_enterStartRed (s : State) (n : RampNo) (p : Plan) (k : LaneNo) :
    (s.enterStartRed n p).head (headOf n k) =
      if k ∈ p.laneList then (s.head (headOf n k)).reprove { s.head (headOf n k) with cycle := .hold }
      else s.head (headOf n k) := by
  simp [State.enterStartRed, State.head_setLanes]

theorem State.enterOpening_rampOnly (s : State) (n : RampNo) (p : Plan) : RampOnly n s (s.enterOpening n p) := by
  unfold State.enterOpening
  simp only []
  split
  · exact (State.modRamp_rampOnly s n _).trans (State.enterStartRed_rampOnly _ n p)
  · exact State.modRamp_rampOnly s n _

theorem State.ramp_enterOpening (s : State) (n : RampNo) (p : Plan) :
    (s.enterOpening n p).ramp n =
      { s.ramp n with
        state := .opening, sub := some (if p.timing.warn = 0 then .startRed else .warn), subTimer := 0 } := by
  unfold State.enterOpening
  simp only []
  split <;> simp [State.ramp_enterStartRed, *]

theorem State.takeAlarm_rampOnly (s : State) (n : RampNo) (p : Plan) : RampOnly n s (s.takeAlarm n p) :=
  ((State.modRamp_rampOnly s n _).trans (State.raise_rampOnly _ n _ _ _ _)).trans (State.takeInterval_rampOnly _ n)

theorem State.enterMetering_rampOnly (s : State) (n : RampNo) (p : Plan) : RampOnly n s (s.enterMetering n p) := by
  unfold State.enterMetering
  simp only []
  split
  · refine RampOnly.trans ?_ (State.takeAlarm_rampOnly _ n p)
    exact ((((State.modRamp_rampOnly s n _).trans
      (State.eachLane_rampOnly (fun k t => State.writeHead_lane_rampOnly t n k _) _ _)).trans
      (State.rampNotice_rampOnly _ n n _)).trans (State.tryRelease_rampOnly _ n)).trans (State.reportEmpty_rampOnly _ n)
  · exact ((((State.modRamp_rampOnly s n _).trans
      (State.eachLane_rampOnly (fun k t => State.writeHead_lane_rampOnly t n k _) _ _)).trans
      (State.rampNotice_rampOnly _ n n _)).trans (State.tryRelease_rampOnly _ n)).trans (State.reportEmpty_rampOnly _ n)

theorem State.enterLockout_rampOnly (s : State) (n : RampNo) (h : HeadNo) (f : FaultClass) :
    RampOnly n s (s.enterLockout n h f) :=
  (((State.leaveRunning_rampOnly s n).trans (State.darken_rampOnly _ n)).trans (State.modRamp_rampOnly _ n _)).trans
    (State.raise_rampOnly _ n _ _ _ _)

theorem State.ramp_enterLockout (s : State) (n : RampNo) (h : HeadNo) (f : FaultClass) :
    (s.enterLockout n h f).ramp n =
      { (s.ramp n).installAmendment with
        emptyJudged := false, state := .lockout, sub := none, subTimer := 0, closeTimer := 0 } := by
  simp [State.enterLockout, State.lockoutNotice, State.ramp_leaveRunning]

theorem State.enterLockout_dark (s : State) (n : RampNo) (h : HeadNo) (f : FaultClass) (k : LaneNo) :
    ((s.enterLockout n h f).head (headOf n k)).aspect = .dark := by
  simp [State.enterLockout, State.lockoutNotice, State.darken_dark]

/-! ### Reaching VACANT, and installing -/

theorem State.clearDemands_rampOnly (s : State) (n : RampNo) : RampOnly n s (s.clearDemands n) :=
  State.eachLane_rampOnly (fun k t => State.setHead_lane_rampOnly t n k _) _ s

@[simp] theorem State.ramps_clearDemands (s : State) (n : RampNo) : (s.clearDemands n).ramps = s.ramps :=
  State.eachLane_induct (P := fun t => t.ramps = s.ramps) (fun k t e => by simp [e]) _ rfl

@[simp] theorem State.link_clearDemands (s : State) (n : RampNo) (l : Link) : (s.clearDemands n).link l = s.link l :=
  State.eachLane_induct (P := fun t => t.link l = s.link l) (fun k t e => by simp [e]) _ rfl

theorem State.head_clearDemands (s : State) (n : RampNo) (k : LaneNo) :
    (s.clearDemands n).head (headOf n k) = (s.head (headOf n k)).clearDemand := by
  have := (State.eachLane_heads' (f := fun k t => t.setHead (headOf n k) (t.head (headOf n k)).clearDemand)
    (φ := fun _ h => h.clearDemand) (n := n) (fun k t => by simp)
    (fun k t h e => State.head_setHead_other t _ e) allLanes_nodup s).1 k
  simpa [State.clearDemands] using this

@[simp] theorem Head.clearDemand_cycle (h : Head) : h.clearDemand.cycle = h.cycle := rfl
@[simp] theorem Head.clearDemand_aspect (h : Head) : h.clearDemand.aspect = h.aspect := rfl

theorem State.releaseAll_refsOnly (s : State) (n : RampNo) : RefsOnly n s (s.releaseAll (.ramp n)) := by
  refine ⟨⟨by constructor <;> rfl, fun c => ?_, fun z => by simp, fun m _ => by simp, fun h _ => by simp⟩,
    SetsOnly.of_links (by simp)⟩
  rw [State.chan_releaseAll]
  unfold Channel.release
  split <;> rfl

theorem State.modChan_claim_refsOnly (s : State) (n : RampNo) (c : Chan) (who : Referencer) (k : Kind) :
    RefsOnly n s (s.modChan c fun r => r.claim who k) := by
  refine ⟨⟨by constructor <;> rfl, fun x => ?_, fun z => by simp, fun m _ => by simp, fun h _ => by simp⟩,
    SetsOnly.of_links (by simp)⟩
  rw [State.chan_modChan]
  split
  · next e => subst e; rfl
  · rfl

theorem State.claimAll_refsOnly (s : State) (n : RampNo) (who : Referencer) (claims : List (Chan × Kind)) :
    RefsOnly n s (s.claimAll who claims) := by
  unfold State.claimAll
  induction claims generalizing s with
  | nil => exact RefsOnly.refl n s
  | cons p rest ih => exact (State.modChan_claim_refsOnly s n p.1 who p.2).trans (ih _)

/-- Claims enter each channel's list in their order (R14, R41). -/
theorem State.refs_claimAll (s : State) (who : Referencer) (claims : List (Chan × Kind)) (c : Chan) :
    ((s.claimAll who claims).chan c).refs =
      (s.chan c).refs ++ (claims.filter fun p => decide (p.1 = c)).map fun p => (who, p.2) := by
  unfold State.claimAll
  induction claims generalizing s with
  | nil => simp
  | cons p rest ih =>
    rw [List.foldl_cons, ih, State.chan_modChan]
    by_cases e : c = p.1
    · subst e
      simp [Channel.claim]
    · have e' : ¬p.1 = c := fun x => e x.symm
      simp [e, e']

theorem State.refs_releaseAll (s : State) (who : Referencer) (c : Chan) :
    ((s.releaseAll who).chan c).refs = (s.chan c).refs.filter fun p => decide (p.1 ≠ who) := by
  rw [State.chan_releaseAll]
  unfold Channel.release
  split
  · rfl
  · next h =>
    symm
    rw [List.filter_eq_self]
    intro p hp
    simp only [decide_eq_true_eq]
    intro e
    exact h (List.any_eq_true.2 ⟨p, hp, by simp [e]⟩)

@[simp] theorem State.ramps_claimAll (s : State) (who : Referencer) (claims : List (Chan × Kind)) :
    (s.claimAll who claims).ramps = s.ramps := by
  unfold State.claimAll
  induction claims generalizing s with
  | nil => rfl
  | cons p rest ih => rw [List.foldl_cons, ih]; simp

@[simp] theorem State.heads_claimAll (s : State) (who : Referencer) (claims : List (Chan × Kind)) :
    (s.claimAll who claims).heads = s.heads := by
  unfold State.claimAll
  induction claims generalizing s with
  | nil => rfl
  | cons p rest ih => rw [List.foldl_cons, ih]; simp

@[simp] theorem State.link_claimAll (s : State) (who : Referencer) (claims : List (Chan × Kind)) (l : Link) :
    (s.claimAll who claims).link l = s.link l := by
  unfold State.claimAll
  induction claims generalizing s with
  | nil => rfl
  | cons p rest ih => rw [List.foldl_cons, ih]; simp

theorem State.dropRamp_refsOnly (s : State) (n : RampNo) :
    RefsOnly n s { s with zones := s.zones.map fun z => z.dropRamp n } := by
  refine ⟨⟨by constructor <;> rfl, fun _ => rfl, fun z => ?_, fun _ _ => rfl, fun _ _ => rfl⟩,
    SetsOnly.of_links (fun l => by cases l <;> rfl)⟩
  simp only [State.zone, Table.get_map, Zone.dropRamp]

theorem State.vacate_refsOnly (s : State) (n : RampNo) (cause : RampCause) : RefsOnly n s (s.vacate n cause) := by
  unfold State.vacate
  simp only []
  exact ((((((State.darken_rampOnly s n).trans (State.clearDemands_rampOnly _ n)).trans
    (State.setRamp_rampOnly _ n _)).refs).trans (State.releaseAll_refsOnly _ n)).trans
    (State.dropRamp_refsOnly _ n)).trans (State.rampNotice_rampOnly _ n n cause).refs

theorem State.ramp_vacate (s : State) (n : RampNo) (cause : RampCause) :
    (s.vacate n cause).ramp n = Ramp.vacantRecord := by
  simp [State.vacate, State.ramp, State.releaseAll, State.setRamp]

theorem State.vacate_dark (s : State) (n : RampNo) (cause : RampCause) (k : LaneNo) :
    ((s.vacate n cause).head (headOf n k)).aspect = .dark := by
  have : (s.vacate n cause).head (headOf n k) = ((s.darken n).clearDemands n).head (headOf n k) := by
    simp [State.vacate, State.head]
  rw [this, State.head_clearDemands]
  simp [State.darken_dark]

theorem State.refs_vacate (s : State) (n : RampNo) (cause : RampCause) (c : Chan) :
    ((s.vacate n cause).chan c).refs = (s.chan c).refs.filter fun p => decide (p.1 ≠ .ramp n) := by
  have : (s.vacate n cause).chan c =
      ((((s.darken n).clearDemands n).setRamp n Ramp.vacantRecord).releaseAll (.ramp n)).chan c := by
    simp [State.vacate, State.chan]
  rw [this, State.refs_releaseAll]
  have h := ((State.darken_rampOnly s n).trans (State.clearDemands_rampOnly _ n)).1.chans
  simp [State.chan, h]

theorem State.zone_vacate (s : State) (n : RampNo) (cause : RampCause) (z : ZoneNo) :
    (s.vacate n cause).zone z = (s.zone z).dropRamp n := by
  have h := ((State.darken_rampOnly s n).trans (State.clearDemands_rampOnly _ n)).1.zones
  simp [State.vacate, State.zone, h]

theorem State.vacate_vacated (s : State) (n : RampNo) (cause : RampCause) : Vacated s (s.vacate n cause) n where
  toOnlyRampAndRefs := (State.vacate_refsOnly s n cause).1
  record := State.ramp_vacate s n cause
  refs := State.refs_vacate s n cause
  members := fun z => by simp [State.zone_vacate, Zone.dropRamp]
  additions := fun z => by
    rw [State.zone_vacate]
    unfold Zone.additions Zone.dropRamp
    cases (s.zone z).amendment <;> simp
  dark := State.vacate_dark s n cause

theorem State.vacate_raised (s : State) (n : RampNo) (cause : RampCause) :
    Raised (s.vacate n cause) .rampState n.val (.rampState .vacant cause) false := by
  have h := raised_raise
    ({ (((s.darken n).clearDemands n).setRamp n Ramp.vacantRecord).releaseAll (.ramp n) with
      zones := ((((s.darken n).clearDemands n).setRamp n Ramp.vacantRecord).releaseAll (.ramp n)).zones.map
        fun z => z.dropRamp n } : State) .rampState n.val (.rampState .vacant cause) false
  simpa [State.vacate, State.rampNotice, State.ramp, State.releaseAll, State.setRamp, Ramp.vacantRecord] using h

theorem State.installNew_refsOnly (s : State) (n : RampNo) (set : Settled) (stop : StopCause) :
    RefsOnly n s (s.installNew n set stop) :=
  ((((State.darken_rampOnly s n).trans (State.clearDemands_rampOnly _ n)).trans (State.setRamp_rampOnly _ n _)).refs).trans
    (State.claimAll_refsOnly _ n _ _)

theorem State.ramp_installNew (s : State) (n : RampNo) (set : Settled) (stop : StopCause) :
    (s.installNew n set stop).ramp n = Ramp.installed set stop := by
  simp [State.installNew, State.ramp, State.setRamp]

theorem State.head_installNew (s : State) (n : RampNo) (set : Settled) (stop : StopCause) (k : LaneNo) :
    (s.installNew n set stop).head (headOf n k) =
      ((s.head (headOf n k)).reprove (s.head (headOf n k)).darkened).clearDemand := by
  have : (s.installNew n set stop).head (headOf n k) = ((s.darken n).clearDemands n).head (headOf n k) := by
    simp [State.installNew, State.head]
  rw [this, State.head_clearDemands, State.head_darken]

theorem State.refs_installNew (s : State) (n : RampNo) (set : Settled) (stop : StopCause) (c : Chan) :
    ((s.installNew n set stop).chan c).refs =
      (s.chan c).refs ++ (set.plan.layout.claims.filter fun p => decide (p.1 = c)).map fun p => (.ramp n, p.2) := by
  have h := ((State.darken_rampOnly s n).trans (State.clearDemands_rampOnly _ n)).1.chans
  unfold State.installNew
  rw [State.refs_claimAll]
  simp [State.chan, h]

/-! ### Closing (R30, R31) -/

theorem State.endClosing_refsOnly (s : State) (n : RampNo) : RefsOnly n s (s.endClosing n) := by
  unfold State.endClosing
  split
  · exact State.vacate_refsOnly s n _
  · exact (State.park_rampOnly s n _ _).refs

theorem State.endClosing_over (s : State) (n : RampNo) : ClosingOver s (s.endClosing n) n (s.ramp n).retirePending := by
  unfold ClosingOver State.endClosing
  refine ⟨fun h => ?_, fun h => ?_⟩
  · simp only [h, Bool.false_eq_true, if_false]
    refine ⟨?_, ?_, ?_, ?_, State.park_dark s n _ _, State.park_raised s n _ _, (State.park_rampOnly s n _ _).1⟩
    all_goals simp [State.ramp_park, RatesKept]
  · simp only [h, if_true]
    exact ⟨State.vacate_vacated s n _, State.vacate_raised s n _⟩

theorem State.endSettle_refsOnly (s : State) (n : RampNo) (p : Plan) : RefsOnly n s (s.endSettle n p) := by
  unfold State.endSettle
  split
  · exact State.endClosing_refsOnly s n
  · exact ((State.modRamp_rampOnly s n _).trans
      (State.eachLane_rampOnly (fun k t => State.writeHead_lane_rampOnly t n k _) _ _)).refs

theorem State.trySettle_refsOnly (s : State) (n : RampNo) : RefsOnly n s (s.trySettle n) := by
  unfold State.trySettle
  repeat' split
  · exact RefsOnly.refl n s
  · exact State.endSettle_refsOnly s n _
  · exact RefsOnly.refl n s

theorem State.enterClosing_refsOnly (s : State) (n : RampNo) (retire : Bool) (cause : RampCause) :
    RefsOnly n s (s.enterClosing n retire cause) :=
  ((((State.leaveRunning_rampOnly s n).trans (State.modRamp_rampOnly _ n _)).trans
    (State.rampNotice_rampOnly _ n n _)).refs).trans (State.trySettle_refsOnly _ n)

theorem State.permitStops_refsOnly (s : State) (n : RampNo) : RefsOnly n s (s.permitStops n) := by
  unfold State.permitStops
  simp only []
  repeat' split
  · exact (State.leaveRunning_rampOnly s n).refs.trans (State.vacate_refsOnly _ n _)
  · exact ((State.leaveRunning_rampOnly s n).trans (State.park_rampOnly _ n _ _)).refs
  · exact RefsOnly.refl n s

end Sys2Proof.Machine
end

