-- ==== Sys2Proof/Laws/Release.lean ====
section
/-! SUPPORT. Notices that an operation leaves as they are, and what a release does to the ramp record and its notices (R99, R105,
R112 to R115). -/

namespace Sys2Proof.Machine

/-! ### Notices left as they are -/

/-- What is said of the records of a kind and subject still holds. -/
def Untouched (k : NoticeKind) (i : Nat) (s t : State) : Prop :=
  (∀ d live, Raised s k i d live → Raised t k i d live) ∧ (NotLive s k i → NotLive t k i)

theorem Untouched.refl (k : NoticeKind) (i : Nat) (s : State) : Untouched k i s s := ⟨fun _ _ h => h, fun h => h⟩

theorem Untouched.trans {k : NoticeKind} {i : Nat} {s t u : State} (h : Untouched k i s t) (g : Untouched k i t u) :
    Untouched k i s u := ⟨fun d l x => g.1 d l (h.1 d l x), fun x => g.2 (h.2 x)⟩

theorem untouched_of_sets {s t : State} (e : ∀ l, (t.link l).set = (s.link l).set) (k : NoticeKind) (i : Nat) :
    Untouched k i s t := ⟨fun _ _ h => h.of_sets e, fun h => h.of_sets e⟩

theorem untouched_raise (s : State) {k j : NoticeKind} {i m : Nat} (d : Detail) (live : Bool) (ne : ¬(k = j ∧ i = m)) :
    Untouched k i s (s.raise j m d live) := ⟨fun _ _ h => h.raise ne, fun h => h.raise (.inr ne)⟩

theorem untouched_liveClear (s : State) {k j : NoticeKind} {i m : Nat} (ne : ¬(k = j ∧ i = m)) :
    Untouched k i s (s.liveClear j m) := ⟨fun _ _ h => h.liveClear ne, fun h => h.liveClear _ _⟩

theorem untouched_writeHead (s : State) {k : NoticeKind} (i : Nat) (ne : k ≠ .lamp) (h : HeadNo) (c : Head) :
    Untouched k i s (s.writeHead h c) := ⟨fun _ _ x => x.writeHead ne h c, fun x => x.writeHead h c⟩

theorem untouched_modRamp (s : State) (k : NoticeKind) (i : Nat) (n : RampNo) (f : Ramp → Ramp) :
    Untouched k i s (s.modRamp n f) := untouched_of_sets (by simp) k i

theorem untouched_eachLane {k : NoticeKind} {i : Nat} {f : LaneNo → State → State} (hf : ∀ j t, Untouched k i t (f j t))
    (lanes : List LaneNo) (s : State) : Untouched k i s (s.eachLane lanes f) :=
  State.eachLane_induct (P := fun t => Untouched k i s t) (fun j t h => h.trans (hf j t)) lanes (Untouched.refl k i s)

theorem untouched_darken (s : State) {k : NoticeKind} (i : Nat) (ne : k ≠ .lamp) (n : RampNo) :
    Untouched k i s (s.darken n) := untouched_eachLane (fun _ t => untouched_writeHead t i ne _ _) _ s

theorem untouched_rampNotice (s : State) {k : NoticeKind} {i : Nat} {n : RampNo} (cause : RampCause)
    (ne : ¬(k = .rampState ∧ i = n.val)) : Untouched k i s (s.rampNotice n cause) := untouched_raise s _ _ ne

theorem untouched_park (s : State) {k : NoticeKind} {i : Nat} {n : RampNo} (stop : StopCause) (cause : RampCause)
    (nl : k ≠ .lamp) (ne : ¬(k = .rampState ∧ i = n.val)) : Untouched k i s (s.park n stop cause) :=
  ((untouched_darken s i nl n).trans (untouched_modRamp _ k i n _)).trans (untouched_rampNotice _ cause ne)

theorem untouched_vacate (s : State) {k : NoticeKind} {i : Nat} {n : RampNo} (cause : RampCause)
    (nl : k ≠ .lamp) (ne : ¬(k = .rampState ∧ i = n.val)) : Untouched k i s (s.vacate n cause) := by
  unfold State.vacate
  simp only []
  have hz : ∀ (u : State) (zs : Table Zone 6), Untouched k i u { u with zones := zs } :=
    fun u zs => untouched_of_sets (fun l => by cases l <;> rfl) k i
  have hc : ∀ u : State, Untouched k i u ((u.setRamp n Ramp.vacantRecord).releaseAll (.ramp n)) :=
    fun u => untouched_of_sets (fun l => by simp) k i
  exact ((((untouched_darken s i nl n).trans (untouched_of_sets (fun l => by simp) k i)).trans (hc _)).trans
    (hz _ _)).trans (untouched_rampNotice _ cause ne)

theorem untouched_setLanes (s : State) {k : NoticeKind} (i : Nat) (nl : k ≠ .lamp) (n : RampNo) (p : Plan)
    (c : CycleState) : Untouched k i s (s.setLanes n p c) :=
  untouched_eachLane (fun _ t => untouched_writeHead t i nl _ _) _ s

theorem untouched_judgeLane (s : State) {k : NoticeKind} (i : Nat) (nl : k ≠ .lamp) (n : RampNo) (p : Plan) (j : LaneNo) :
    Untouched k i s (s.judgeLane n p j) := by
  unfold State.judgeLane
  repeat' split
  all_goals first
    | exact Untouched.refl k i s
    | exact untouched_writeHead s i nl _ _
    | exact (untouched_modRamp s k i n _).trans (untouched_writeHead _ i nl _ _)

theorem untouched_endClosing (s : State) {k : NoticeKind} {i : Nat} {n : RampNo} (nl : k ≠ .lamp)
    (ne : ¬(k = .rampState ∧ i = n.val)) : Untouched k i s (s.endClosing n) := by
  unfold State.endClosing
  split
  · exact untouched_vacate s _ nl ne
  · exact untouched_park s _ _ nl ne

theorem untouched_endSettle (s : State) {k : NoticeKind} {i : Nat} {n : RampNo} (p : Plan) (nl : k ≠ .lamp)
    (ne : ¬(k = .rampState ∧ i = n.val)) : Untouched k i s (s.endSettle n p) := by
  unfold State.endSettle
  split
  · exact untouched_endClosing s nl ne
  · exact (untouched_modRamp s k i n _).trans (untouched_eachLane (fun _ t => untouched_writeHead t i nl _ _) _ _)

theorem untouched_trySettle (s : State) {k : NoticeKind} {i : Nat} {n : RampNo} (nl : k ≠ .lamp)
    (ne : ¬(k = .rampState ∧ i = n.val)) : Untouched k i s (s.trySettle n) := by
  unfold State.trySettle
  repeat' split
  · exact Untouched.refl k i s
  · exact untouched_endSettle s _ nl ne
  · exact Untouched.refl k i s

/-! ### The ramp record through a release -/

/-- The flush exit cannot come, whatever a release takes off Q: the ramp is not FLUSHING, or the flush hold has not run
(R105). -/
def Ramp.NoExit (r : Ramp) : Prop := r.state = .flushing → ∀ p, r.plan = some p → r.contOff < p.queue.flushHold * 100

theorem Ramp.NoExit.not_met {r : Ramp} (h : r.NoExit) : r.flushExitMet = false := by
  unfold Ramp.flushExitMet
  split
  · rfl
  · next p hp =>
    by_cases e : r.state = .flushing
    · have := h e p hp
      simp only [Bool.and_eq_false_iff, decide_eq_false_iff_not]
      left; right; omega
    · simp [e]

/-- What a release may do to a ramp record: take vehicles off Q while the hold is clear, and forget or report the empty judgement. -/
structure Ramp.Released (r u : Ramp) : Prop where
  same : u = { r with q := u.q, emptyJudged := u.emptyJudged, emptyPending := u.emptyPending }
  q : u.q ≤ r.q
  held : r.hold = true → u.q = r.q

theorem Ramp.Released.refl (r : Ramp) : r.Released r := ⟨rfl, Nat.le_refl _, fun _ => rfl⟩

theorem Ramp.Released.trans {r u v : Ramp} (h : r.Released u) (k : u.Released v) : r.Released v := by
  have e : u.hold = r.hold := by rw [h.same]
  refine ⟨?_, Nat.le_trans k.q h.q, fun x => (k.held (e.trans x)).trans (h.held x)⟩
  have := k.same
  rw [h.same] at this
  exact this

theorem Ramp.Released.noExit {r u : Ramp} (h : r.Released u) (k : r.NoExit) : u.NoExit := by
  intro e p hp
  rw [h.same] at e hp ⊢
  exact k e p hp

/-- A step of a release: the ramp record moves as `Released` says, no exit comes, notices other than LAMP stay. -/
structure Release (n : RampNo) (s t : State) : Prop where
  ramp : (s.ramp n).Released (t.ramp n)
  noExit : (t.ramp n).NoExit
  notices : ∀ k i, k ≠ .lamp → Untouched k i s t

theorem Release.trans {n : RampNo} {s t u : State} (h : Release n s t) (k : Release n t u) : Release n s u :=
  ⟨h.ramp.trans k.ramp, k.noExit, fun j i ne => (h.notices j i ne).trans (k.notices j i ne)⟩

theorem Release.refl {n : RampNo} {s : State} (h : (s.ramp n).NoExit) : Release n s s :=
  ⟨Ramp.Released.refl _, h, fun _ _ _ => Untouched.refl _ _ _⟩

theorem State.takeGreenStart_release {s : State} {n : RampNo} (h : (s.ramp n).NoExit) (k : LaneNo) :
    Release n s (s.takeGreenStart n k) := by
  unfold State.takeGreenStart
  split
  · exact Release.refl h
  · next p hp =>
    split
    · exact Release.refl h
    · next c =>
      have hr : (s.ramp n).Released ((s.ramp n).takeVehicles p.layout.v) :=
        ⟨rfl, Nat.sub_le _ _, fun x => absurd (Or.inl x) c⟩
      have hn := hr.noExit h
      rw [State.tryFlushExit_none (by simpa using hn.not_met)]
      exact ⟨by simpa using hr, by simpa using hn, fun _ _ _ => untouched_modRamp _ _ _ _ _⟩

theorem State.writeHead_release {s : State} {n : RampNo} (h : (s.ramp n).NoExit) (g : HeadNo) (c : Head) :
    Release n s (s.writeHead g c) :=
  ⟨by simpa using Ramp.Released.refl _, by simpa using h, fun _ i ne => untouched_writeHead s i ne g c⟩

theorem State.forgetEmpty_release {s : State} {n : RampNo} (h : (s.ramp n).NoExit) : Release n s (s.forgetEmpty n) := by
  have hr : (s.ramp n).Released { s.ramp n with emptyJudged := false } := ⟨rfl, Nat.le_refl _, fun _ => rfl⟩
  exact ⟨by simpa [State.forgetEmpty] using hr, by simpa [State.forgetEmpty] using hr.noExit h,
    fun _ _ _ => untouched_modRamp _ _ _ _ _⟩

theorem State.eachLane_release {n : RampNo} {f : LaneNo → State → State}
    (hf : ∀ k t, (t.ramp n).NoExit → Release n t (f k t)) (lanes : List LaneNo) {s : State} (h : (s.ramp n).NoExit) :
    Release n s (s.eachLane lanes f) :=
  State.eachLane_induct (P := fun t => Release n s t) (fun k t x => x.trans (hf k t x.noExit)) lanes (Release.refl h)

theorem State.greenStarts_release {s : State} {n : RampNo} (h : (s.ramp n).NoExit) (lanes : List LaneNo) :
    Release n s (s.greenStarts n lanes) := by
  have h1 := State.forgetEmpty_release h
  have h2 := State.eachLane_release (fun k t x => State.writeHead_release x (headOf n k)
    { t.head (headOf n k) with cycle := .green, sinceStart := 0 }) lanes h1.noExit
  exact (h1.trans h2).trans
    (State.eachLane_release (fun k t x => State.takeGreenStart_release x k) lanes h2.noExit)

theorem State.tryRelease_release {s : State} {n : RampNo} (h : (s.ramp n).NoExit) : Release n s (s.tryRelease n) := by
  unfold State.tryRelease
  repeat' split
  · exact Release.refl h
  · exact State.greenStarts_release h _
  · exact Release.refl h

theorem State.judgeLane_release {s : State} {n : RampNo} (h : (s.ramp n).NoExit) (p : Plan) (k : LaneNo) :
    Release n s (s.judgeLane n p k) := by
  have e := State.ramp_judgeLane s n p k
  have hr : (s.ramp n).Released ((s.judgeLane n p k).ramp n) := by
    refine ⟨?_, ?_, ?_⟩
    · conv => lhs; rw [e]
      rw [show ((s.judgeLane n p k).ramp n).q = (s.ramp n).q by rw [e],
        show ((s.judgeLane n p k).ramp n).emptyPending = (s.ramp n).emptyPending by rw [e]]
    · exact Nat.le_of_eq (by rw [e])
    · intro _; rw [e]
  exact ⟨hr, hr.noExit h, fun _ i ne => untouched_judgeLane s i ne n p k⟩

theorem State.reportEmpty_release {s : State} {n : RampNo} (h : (s.ramp n).NoExit) : Release n s (s.reportEmpty n) := by
  unfold State.reportEmpty
  split
  · have hr : (s.ramp n).Released { s.ramp n with emptyJudged := true, emptyPending := true } :=
      ⟨rfl, Nat.le_refl _, fun _ => rfl⟩
    exact ⟨by simpa using hr, by simpa using hr.noExit h, fun _ _ _ => untouched_modRamp _ _ _ _ _⟩
  · exact Release.refl h

theorem State.takeInterval_release {s : State} {n : RampNo} (h : (s.ramp n).NoExit) :
    Release n s (s.takeInterval n) := by
  unfold State.takeInterval
  repeat' split
  · exact Release.refl h
  · next p _ _ =>
    have h1 := State.eachLane_release (fun k t x => State.judgeLane_release x p k) p.laneList h
    have h2 := State.tryRelease_release h1.noExit
    exact (h1.trans h2).trans (State.reportEmpty_release h2.noExit)
  · exact Release.refl h

/-- The queue alarm of a METERING ramp whose flush hold has not run (R28, R102, R106). -/
theorem State.takeAlarm_effect {s : State} {n : RampNo} {p : Plan} (hp : (s.ramp n).plan = some p)
    (hc : (s.ramp n).contOff < p.queue.flushHold * 100) :
    Ramp.Released
        { (s.ramp n).flushRates p with state := .flushing, q := p.queue.storage, dwellTaken := true, alarmTaken := true }
        ((s.takeAlarm n p).ramp n) ∧
      Raised (s.takeAlarm n p) .flush n.val
        (.flush .flushing .queueAlarm p.layout.queueEnd p.queue.dwell (s.ramp n).q p.queue.storage) true ∧
      ∀ k i, k ≠ .lamp → ¬(k = .flush ∧ i = n.val) → Untouched k i s (s.takeAlarm n p) := by
  have hn : (((s.modRamp n fun r =>
      { r.flushRates p with state := .flushing, q := p.queue.storage, dwellTaken := true, alarmTaken := true }).raise .flush n.val
        (.flush .flushing .queueAlarm p.layout.queueEnd p.queue.dwell (s.ramp n).q p.queue.storage) true).ramp n).NoExit := by
    intro _ p' hp'
    simp [Ramp.flushRates, Ramp.writeApplied, hp] at hp' ⊢
    subst hp'
    exact hc
  have hr := State.takeInterval_release hn
  refine ⟨?_, (hr.notices _ _ (by simp)).1 _ _ (raised_raise _ _ _ _ _), fun k i nl ne =>
    ((untouched_modRamp s k i n _).trans (untouched_raise _ _ _ ne)).trans (hr.notices k i nl)⟩
  have := hr.ramp
  simpa [State.takeAlarm] using this

/-! ### What green starts do (R99, R105) -/

/-- A lane takes vehicles off Q exactly when the hold is clear and it has no passage channel held GOOD (R99). -/
theorem Ramp.takingOff_cons (r : Ramp) (k : LaneNo) (rest : List LaneNo) :
    r.takingOff (k :: rest) =
      if r.hold = true ∨ r.passageGood k = true then r.takingOff rest else k :: r.takingOff rest := by
  have e : (r.hold = false ∧ ∀ c, r.passageChan k = some c → r.heldHealth c ≠ .good) ↔
      ¬ (r.hold = true ∨ r.passageGood k = true) := by
    unfold Ramp.passageGood
    cases r.passageChan k <;> simp
  unfold Ramp.takingOff
  rw [List.filter_cons]
  simp only [e, decide_eq_true_eq]
  split <;> simp_all

/-- What a lane takes does not rest on Q, on the empty judgement or on the state. -/
theorem Ramp.takingOff_congr {r u : Ramp} {q : Nat} {e : Bool} {st : RampState}
    (h : u = { r with q := q, emptyJudged := e, state := st }) : u.takingOff = r.takingOff := by
  subst h
  rfl

theorem Ramp.flushExitMet_iff {r : Ramp} {p : Plan} (hp : r.plan = some p) :
    r.flushExitMet = true ↔ r.state = .flushing ∧ p.queue.flushHold * 100 ≤ r.contOff ∧ r.q ≤ p.queue.target := by
  simp [Ramp.flushExitMet, hp, and_assoc]

/-- The flush exit raises its RAMP STATE notice and takes the live flag off the FLUSH notice (R29, R106). -/
theorem State.tryFlushExit_notices {s : State} {n : RampNo} (h : (s.ramp n).flushExitMet = true) :
    Raised (s.tryFlushExit n) .rampState n.val (.rampState .metering .flushEnded) false ∧
      NotLive (s.tryFlushExit n) .flush n.val := by
  unfold State.tryFlushExit
  rw [if_pos h]
  refine ⟨Raised.liveClear ?_ (by simp), notLive_liveClear _ _ _⟩
  have := raised_raise (s.modRamp n fun r => { r with state := .metering }) .rampState n.val
    (.rampState .metering .flushEnded) false
  simpa [State.rampNotice] using this

/-- The reports of these lanes' green starts (R99, R105): Q is lowered by what the lanes take, and one flush exit follows when its
conditions then hold; without it no notice moves. -/
theorem State.eachGreenStart_effect {n : RampNo} {p : Plan} (lanes : List LaneNo) :
    ∀ s : State, (s.ramp n).plan = some p →
      (¬ (s.ramp n).flushEnds p lanes →
        (s.eachLane lanes fun k t => t.takeGreenStart n k).ramp n = { s.ramp n with q := (s.ramp n).qAfter p lanes } ∧
          ∀ l, (s.eachLane lanes fun k t => t.takeGreenStart n k).link l = s.link l) ∧
      ((s.ramp n).flushEnds p lanes →
        (s.eachLane lanes fun k t => t.takeGreenStart n k).ramp n =
            { s.ramp n with q := (s.ramp n).qAfter p lanes, state := .metering } ∧
          Raised (s.eachLane lanes fun k t => t.takeGreenStart n k) .rampState n.val (.rampState .metering .flushEnded) false ∧
          NotLive (s.eachLane lanes fun k t => t.takeGreenStart n k) .flush n.val) := by
  induction lanes with
  | nil => intro s _; simp [Ramp.flushEnds, Ramp.qAfter, Ramp.takingOff]
  | cons k rest ih =>
    intro s hp
    rw [State.eachLane_cons]
    by_cases c : (s.ramp n).hold = true ∨ (s.ramp n).passageGood k = true
    · have e : s.takeGreenStart n k = s := by
        unfold State.takeGreenStart
        rw [hp]
        exact if_pos c
      have ht : (s.ramp n).takingOff (k :: rest) = (s.ramp n).takingOff rest := by rw [Ramp.takingOff_cons, if_pos c]
      rw [e]
      simpa only [Ramp.flushEnds, Ramp.qAfter, ht] using ih s hp
    · have e : s.takeGreenStart n k = (s.modRamp n fun r => r.takeVehicles p.layout.v).tryFlushExit n := by
        unfold State.takeGreenStart
        rw [hp]
        exact if_neg c
      have ht : (s.ramp n).takingOff (k :: rest) = k :: (s.ramp n).takingOff rest := by rw [Ramp.takingOff_cons, if_neg c]
      have hq : (s.ramp n).qAfter p (k :: rest) =
          (s.ramp n).q - p.layout.v - p.layout.v * ((s.ramp n).takingOff rest).length := by
        rw [Ramp.qAfter, ht, List.length_cons, Nat.mul_succ]; omega
      have hm : (((s.modRamp n fun r => r.takeVehicles p.layout.v).ramp n).flushExitMet = true) ↔
          (s.ramp n).state = .flushing ∧ p.queue.flushHold * 100 ≤ (s.ramp n).contOff ∧
            (s.ramp n).q - p.layout.v ≤ p.queue.target := by
        rw [State.ramp_modRamp, if_pos rfl, Ramp.flushExitMet_iff (p := p) (by exact hp)]
        rfl
      have hf : (s.ramp n).flushEnds p (k :: rest) ↔ (s.ramp n).state = .flushing ∧
          p.queue.flushHold * 100 ≤ (s.ramp n).contOff ∧
            (s.ramp n).q - p.layout.v - p.layout.v * ((s.ramp n).takingOff rest).length ≤ p.queue.target := by
        simp [Ramp.flushEnds, hq, ht]
      rw [e]
      have hr := State.ramp_tryFlushExit (s.modRamp n fun r => r.takeVehicles p.layout.v) n
      by_cases x : ((s.modRamp n fun r => r.takeVehicles p.layout.v).ramp n).flushExitMet = true
      · rw [if_pos x] at hr
        have hn := State.tryFlushExit_notices x
        have hru : ((s.modRamp n fun r => r.takeVehicles p.layout.v).tryFlushExit n).ramp n =
            { s.ramp n with q := (s.ramp n).q - p.layout.v, state := .metering } := by
          rw [hr, State.ramp_modRamp, if_pos rfl]
          rfl
        obtain ⟨k1, k2⟩ := (ih ((s.modRamp n fun r => r.takeVehicles p.layout.v).tryFlushExit n)
          (by rw [hru]; exact hp)).1 (by rw [hru]; simp [Ramp.flushEnds])
        have ht2 := Ramp.takingOff_congr (u := { s.ramp n with q := (s.ramp n).q - p.layout.v, state := .metering })
          (r := s.ramp n) rfl
        have hx := hm.1 x
        refine ⟨fun no => absurd (hf.2 ⟨hx.1, hx.2.1, by omega⟩) no, fun _ => ⟨?_, ?_, ?_⟩⟩
        · rw [k1, hru, hq]
          simp only [Ramp.qAfter, ht2]
        · exact hn.1.of_sets fun l => by rw [k2]
        · exact hn.2.of_sets fun l => by rw [k2]
      · have hru : ((s.modRamp n fun r => r.takeVehicles p.layout.v).tryFlushExit n) =
            s.modRamp n fun r => r.takeVehicles p.layout.v := State.tryFlushExit_none (by simpa using x)
        have hrr : (s.modRamp n fun r => r.takeVehicles p.layout.v).ramp n =
            { s.ramp n with q := (s.ramp n).q - p.layout.v } := by
          rw [State.ramp_modRamp, if_pos rfl]
          rfl
        have ht2 := Ramp.takingOff_congr (u := { s.ramp n with q := (s.ramp n).q - p.layout.v }) (r := s.ramp n) rfl
        rw [hru]
        have i := ih (s.modRamp n fun r => r.takeVehicles p.layout.v) (by rw [hrr]; exact hp)
        have he : ((s.modRamp n fun r => r.takeVehicles p.layout.v).ramp n).flushEnds p rest ↔
            (s.ramp n).flushEnds p (k :: rest) := by
          rw [hf, hrr]
          unfold Ramp.flushEnds Ramp.qAfter
          rw [ht2]
          refine ⟨fun h => h.2, fun h => ⟨fun nil => x (hm.2 ⟨h.1, h.2.1, ?_⟩), h⟩⟩
          have := h.2.2
          rw [nil] at this
          simpa using this
        rw [he] at i
        have hq2 : ((s.modRamp n fun r => r.takeVehicles p.layout.v).ramp n).qAfter p rest =
            (s.ramp n).qAfter p (k :: rest) := by
          rw [hq, hrr]
          simp only [Ramp.qAfter, ht2]
        rw [hq2] at i
        refine ⟨fun no => ⟨?_, fun l => ?_⟩, fun yes => ⟨?_, (i.2 yes).2⟩⟩
        · rw [(i.1 no).1, hrr]
        · rw [(i.1 no).2]
          simp
        · rw [(i.2 yes).1, hrr]

/-- A release as a whole: what the green starts of these lanes leave in the ramp's record and its notices (R99, R105, R112 to R115). -/
theorem State.greenStarts_started {s : State} {n : RampNo} {p : Plan} (hp : (s.ramp n).plan = some p) {lanes : List LaneNo}
    (nd : lanes.Nodup) : GreenStarted s (s.greenStarts n lanes) n p lanes := by
  have hr : ((s.forgetEmpty n).eachLane lanes fun k t => t.lightGreen (headOf n k)).ramp n =
      { s.ramp n with emptyJudged := false } :=
    State.eachLane_induct (P := fun t => t.ramp n = { s.ramp n with emptyJudged := false })
      (fun k t e => by simpa [State.lightGreen] using e) lanes (by simp [State.forgetEmpty])
  have ht := Ramp.takingOff_congr (u := { s.ramp n with emptyJudged := false }) (r := s.ramp n) rfl
  have i := State.eachGreenStart_effect lanes
    ((s.forgetEmpty n).eachLane lanes fun k t => t.lightGreen (headOf n k)) (by rw [hr]; exact hp)
  rw [hr] at i
  have hq : ({ s.ramp n with emptyJudged := false } : Ramp).qAfter p lanes = (s.ramp n).qAfter p lanes := by
    simp only [Ramp.qAfter, ht]
  have hf : ({ s.ramp n with emptyJudged := false } : Ramp).flushEnds p lanes ↔ (s.ramp n).flushEnds p lanes := by
    simp only [Ramp.flushEnds, ht, hq]
  rw [hf, hq] at i
  refine ⟨fun k hk => ?_, fun no => (i.1 no).1, fun yes => i.2 yes⟩
  rw [State.head_greenStarts s n nd k, if_pos hk]
  simp

end Sys2Proof.Machine
end

