-- ==== Sys2Proof/Laws/Links.lean ====
section
/-! SUPPORT. What taking a frame and answering it do (R130 to R132, R136 to R139): the one account that every command's proof
uses. -/

namespace Sys2Proof.Machine

/-! ### The two ends of a command -/

theorem State.link_goodFrame (s : State) (l k : Link) :
    (s.goodFrame l).link k =
      { (if k = l then { s.link l with
          linkState := .executing, rx := .absent, gap := 0, supervised := true, supTimer := 0 } else s.link k) with
        set := s.setAfterFrame l k } := by
  unfold State.goodFrame State.setAfterFrame
  simp only []
  by_cases e : k = l
  · subst e
    split <;> simp [State.link_liveClear]
  · split <;> simp [State.link_liveClear, State.link_setLink_other, e]

@[simp] theorem State.set_goodFrame (s : State) (l k : Link) : ((s.goodFrame l).link k).set = s.setAfterFrame l k := by
  rw [State.link_goodFrame]

theorem State.link_respond (s : State) (l k : Link) (code : Byte) (r : Reply) :
    (s.respond l code r).link k =
      if k = l then { s.link l with
        linkState := .replying, overrun := false, response := some ⟨r.status, s.flagsFor l, code, r.result⟩ }
      else s.link k := by
  unfold State.respond
  by_cases e : k = l
  · subst e; simp
  · simp [e, State.link_setLink_other]

@[simp] theorem State.set_respond (s : State) (l k : Link) (code : Byte) (r : Reply) :
    ((s.respond l code r).link k).set = (s.link k).set := by
  rw [State.link_respond]
  split
  · next e => subst e; rfl
  · rfl

theorem State.frame_takes {s : State} {l : Link} {code : Byte} {run : State → State × Reply} (h : s.takes l) :
    s.frame l code run = (run (s.goodFrame l)).1.respond l code (run (s.goodFrame l)).2 := by
  simp [State.frame, h.1, h.2]

/-- A command taken: what its block does to the state that the frame left, and the response. -/
theorem State.frame_eq {s : State} {l : Link} {code : Byte} {run : State → State × Reply} {u : State} {r : Reply}
    (h : s.takes l) (e : run (s.goodFrame l) = (u, r)) : s.frame l code run = u.respond l code r := by
  rw [State.frame_takes h, e]

/-! ### What the whole keeps -/

theorem OnlyLinks.framed {s u : State} {l : Link} (h : OnlyLinks (s.goodFrame l) u) (code : Byte) (r : Reply) :
    OnlyLinks s (u.respond l code r) :=
  ((State.goodFrame_onlyLinks s l).trans h).trans (State.respond_onlyLinks u l code r)

theorem OnlyRamp.framed {n : RampNo} {s u : State} {l : Link} (h : OnlyRamp n (s.goodFrame l) u) (code : Byte)
    (r : Reply) : OnlyRamp n s (u.respond l code r) :=
  (((State.goodFrame_onlyLinks s l).onlyRamp n).trans h).trans ((State.respond_onlyLinks u l code r).onlyRamp n)

theorem OnlyRampAndRefs.framed {n : RampNo} {s u : State} {l : Link} (h : OnlyRampAndRefs n (s.goodFrame l) u)
    (code : Byte) (r : Reply) : OnlyRampAndRefs n s (u.respond l code r) :=
  (((State.goodFrame_onlyLinks s l).refs n).trans h).trans ((State.respond_onlyLinks u l code r).refs n)

theorem RestSame.framed {s u : State} {l : Link} (h : RestSame (s.goodFrame l) u) (code : Byte) (r : Reply) :
    RestSame s (u.respond l code r) :=
  ((State.goodFrame_onlyLinks s l).toRestSame.trans h).trans (State.respond_onlyLinks u l code r).toRestSame

/-- A block that changes the links in their sets alone: the frame is answered with its status and result. -/
theorem answered_of_setsOnly {s u : State} {l : Link} (h : SetsOnly (s.goodFrame l) u) (code : Byte) (r : Reply) :
    Answered s (u.respond l code r) l code r.status r.result := by
  constructor
  · have hl := h l
    rw [State.link_goodFrame] at hl
    simp only [if_true] at hl
    rw [State.set_respond]
    rw [State.link_respond]
    simp only [if_true]
    have hp : ∀ c : LinkCtx, ({ c with
        linkState := .replying, overrun := false
        response := some ⟨r.status, u.flagsFor l, code, r.result⟩ } : LinkCtx).noticePending = c.noticePending :=
      fun _ => rfl
    rw [hp]
    simp only [State.flagsFor, State.respond_takeover, State.respond_permit]
    rw [hl]
  · intro k e
    have hk := h k
    rw [State.link_goodFrame] at hk
    simp only [e, if_false] at hk
    rw [State.set_respond, State.link_respond]
    simp only [e, if_false]
    rw [hk]

/-- A block that leaves the sets alone raises no notice. -/
theorem noNotice_of_sets {s u : State} {l : Link} (h : ∀ k, (u.link k).set = ((s.goodFrame l).link k).set) (code : Byte)
    (r : Reply) : NoNotice s (u.respond l code r) l := by
  intro k
  simp [h k]

/-- A block that changes nothing and refuses. -/
theorem refused_of_frame (s : State) (l : Link) (code : Byte) (st : Status) :
    Refused s ((s.goodFrame l).respond l code (.refuse st)) l code st where
  toOnlyLinks := (OnlyLinks.refl _).framed code _
  answer := answered_of_setsOnly (SetsOnly.refl _) code (.refuse st)
  quiet := noNotice_of_sets (fun _ => rfl) code _

/-- A block's refusal through `frame`. -/
theorem State.frame_refused {s : State} {l : Link} {code : Byte} {run : State → State × Reply} {st : Status}
    (h : s.takes l) (e : run (s.goodFrame l) = (s.goodFrame l, .refuse st)) : Refused s (s.frame l code run) l code st := by
  rw [State.frame_eq h e]
  exact refused_of_frame s l code st

theorem Raised.respond {u : State} {k : NoticeKind} {i : Nat} {d : Detail} {live : Bool} (h : Raised u k i d live)
    (l : Link) (code : Byte) (r : Reply) : Raised (u.respond l code r) k i d live := h.of_sets (fun k => by simp)

theorem NotLive.respond {u : State} {k : NoticeKind} {i : Nat} (h : NotLive u k i) (l : Link) (code : Byte) (r : Reply) :
    NotLive (u.respond l code r) k i := h.of_sets (fun k => by simp)

/-- The sets stay ordered through a command whose block keeps them ordered. -/
theorem State.setsOrdered.goodFrame {s : State} (h : s.setsOrdered) (l : Link) : (s.goodFrame l).setsOrdered := by
  rw [State.setsOrdered_iff] at *
  intro k
  rw [State.set_goodFrame]
  unfold State.setAfterFrame
  split
  · exact h k
  · exact noticesOrdered_liveClearIn (h k)

theorem State.setsOrdered.frame {s : State} (h : s.setsOrdered) {l : Link} {code : Byte} {run : State → State × Reply}
    (hr : ∀ t : State, t.setsOrdered → (run t).1.setsOrdered) : (s.frame l code run).setsOrdered := by
  unfold State.frame
  split
  · exact h
  · split
    · refine h.of_sets (fun k => ?_)
      unfold State.overrunFrame
      by_cases e : k = l
      · subst e; simp
      · simp [State.link_setLink_other, e]
    · exact (hr _ (h.goodFrame l)).of_sets (fun k => by simp)

/-- Whatever a command's block keeps, and the two ends keep, `frame` keeps: for a property of everything but the links. -/
theorem State.frame_keeps {P : State → Prop} {s : State} {l : Link} {code : Byte} {run : State → State × Reply}
    (hl : ∀ t u, OnlyLinks t u → P t → P u) (hr : ∀ t : State, P t → P (run t).1) (h : P s) :
    P (s.frame l code run) := by
  unfold State.frame
  split
  · exact h
  · split
    · exact hl _ _ (State.overrunFrame_onlyLinks s l) h
    · exact hl _ _ (State.respond_onlyLinks _ l code _) (hr _ (hl _ _ (State.goodFrame_onlyLinks s l) h))

/-! ### The checks of a ramp command -/

theorem State.onRamp_none {s : State} {ramp : Byte} {f : RampNo → State × Reply} (h : rampArg ramp = none) :
    s.onRamp ramp f = (s, .refuse .range) := by simp [State.onRamp, h]

theorem State.onRamp_some {s : State} {ramp : Byte} {f : RampNo → State × Reply} {n : RampNo} (h : rampArg ramp = some n) :
    s.onRamp ramp f = f n := by simp [State.onRamp, h]

theorem State.onPlan_range {s : State} {ramp : Byte} {f : RampNo → Plan → State × Reply} (h : rampArg ramp = none) :
    s.onPlan ramp f = (s, .refuse .range) := by simp [State.onPlan, State.onRamp, h]

theorem State.onPlan_vacant {s : State} {ramp : Byte} {f : RampNo → Plan → State × Reply} {n : RampNo}
    (h : rampArg ramp = some n) (v : (s.ramp n).state = .vacant) : s.onPlan ramp f = (s, .refuse .absent) := by
  simp [State.onPlan, State.onRamp, h, v]

theorem State.onPlan_some {s : State} {ramp : Byte} {f : RampNo → Plan → State × Reply} {n : RampNo} {p : Plan}
    (h : rampArg ramp = some n) (v : (s.ramp n).state ≠ .vacant) (hp : (s.ramp n).plan = some p) :
    s.onPlan ramp f = f n p := by
  simp only [State.onPlan, State.onRamp, h, hp]

end Sys2Proof.Machine
end

