-- ==== Sys2Proof/Laws/Closing.lean ====
section
/-! SUPPORT. Entering CLOSING (R27, R30, R35), and the closing words of Safety through a command's answer. -/

namespace Sys2Proof.Machine

theorem Head.settled_of_heads {s t : State} (e : t.heads = s.heads) (h : HeadNo) (m : Nat) :
    (t.head h).settled m = (s.head h).settled m := by simp [State.head, e]

theorem Plan.laneList_of_layout {p q : Plan} (h : q.layout = p.layout) : q.laneList = p.laneList := by
  simp [Plan.laneList, h]

/-- The record as CLOSING begins. -/
theorem State.ramp_closingBegun (s : State) (n : RampNo) (retire : Bool) (cause : RampCause) :
    ((((s.leaveRunning n).modRamp n fun r =>
      { r with state := .closing, sub := some .settle, retirePending := r.retirePending || retire }).rampNotice n
        cause).ramp n) =
      { (s.ramp n).installAmendment with
        emptyJudged := false, state := .closing, sub := some .settle
        retirePending := (s.ramp n).retirePending || retire } := by
  simp [State.ramp_leaveRunning]

theorem State.enterClosing_entered {s : State} {n : RampNo} {p : Plan} (hp : (s.ramp n).plan = some p) (retire : Bool)
    (cause : RampCause) :
    ClosingEntered s (s.enterClosing n retire cause) n p ((s.ramp n).retirePending || retire) cause := by
  obtain ⟨q, hq, hl, ht, _⟩ := Ramp.installAmendment_plan hp
  have hlane := Plan.laneList_of_layout hl
  -- the state in which SETTLE has begun
  generalize hu : ((s.leaveRunning n).modRamp n fun r =>
    { r with state := .closing, sub := some .settle, retirePending := r.retirePending || retire }).rampNotice n cause = u
  have hr : u.ramp n = { (s.ramp n).installAmendment with
      emptyJudged := false, state := .closing, sub := some .settle
      retirePending := (s.ramp n).retirePending || retire } := by
    rw [← hu, State.ramp_closingBegun]
  have hheads : u.heads = s.heads := by rw [← hu]; simp
  have hru : RampOnly n s u := by
    rw [← hu]
    exact ((State.leaveRunning_rampOnly s n).trans (State.modRamp_rampOnly _ n _)).trans
      (State.rampNotice_rampOnly _ n n _)
  have hraise : Raised u .rampState n.val (.rampState .closing cause) false := by
    rw [← hu]
    simpa [State.rampNotice] using raised_raise ((s.leaveRunning n).modRamp n fun r =>
      { r with state := .closing, sub := some .settle, retirePending := r.retirePending || retire })
      .rampState n.val (.rampState .closing cause) false
  have hflush : (s.ramp n).state = .flushing → NotLive u .flush n.val := by
    intro e
    rw [← hu]
    have h1 := (untouched_modRamp (s.leaveRunning n) .flush n.val n fun r =>
      { r with state := .closing, sub := some .settle, retirePending := r.retirePending || retire }).2
      (State.leaveRunning_notLive e)
    exact NotLive.raise h1 (.inl rfl)
  have hplan : (u.ramp n).plan = some q := by rw [hr]; exact hq
  have hdue : u.settledDue n = p.laneList.all fun k => (s.head (headOf n k)).settled p.timing.minRed := by
    unfold State.settledDue
    simp only [hplan]
    rw [hlane, ht]
    simp only [Head.settled_of_heads hheads]
    simp [hr, Ramp.settling]
  have heq : s.enterClosing n retire cause = if u.settledDue n then u.endSettle n q else u := by
    unfold State.enterClosing
    simp only []
    rw [hu]
    unfold State.trySettle
    simp only [hplan]
  have hrate : RatesKept (s.ramp n) (u.ramp n) := by simp [hr, RatesKept]
  constructor
  · rintro ⟨k, hk, hs⟩
    have : u.settledDue n = false := by
      rw [hdue, List.all_eq_false]
      exact ⟨k, hk, by simp [hs]⟩
    rw [heq, this]
    simp only [Bool.false_eq_true, if_false]
    exact ⟨by simp [hr], by simp [hr], by simp [hr], by simp [hr], hrate, fun k => by simp [State.head, hheads], hraise,
      hru.1⟩
  · intro hs hc
    have : u.settledDue n = true := by
      rw [hdue, List.all_eq_true]
      exact hs
    rw [heq, this]
    have hc' : q.timing.closeGreen ≠ 0 := by rw [ht]; omega
    simp only [if_true, State.endSettle, hc', if_false]
    have hh := State.head_eachLane_write (φ := fun _ h => h.resting) (n := n) q.laneList_nodup
      (u.modRamp n fun r => { r with sub := some .green, closeTimer := 0 })
    have hramp : ((u.modRamp n fun r => { r with sub := some .green, closeTimer := 0 }).eachLane q.laneList fun k t =>
        t.writeHead (headOf n k) (t.head (headOf n k)).resting).ramp n =
        { u.ramp n with sub := some .green, closeTimer := 0 } :=
      State.eachLane_induct
        (P := fun t => t.ramp n = { u.ramp n with sub := some .green, closeTimer := 0 })
        (fun k t e => by simpa using e) _ (by simp)
    refine ⟨by simp [hramp, hr], by simp [hramp], by simp [hramp, hr], by simp [hramp], ?_, fun k hk => ?_, ?_, ?_⟩
    · simp [hramp, hr, RatesKept]
    · rw [hh k, hlane, if_pos hk]
      simp [Head.resting]
    · exact ((untouched_modRamp u _ _ n _).trans
        (untouched_eachLane (fun _ t => untouched_writeHead t _ (by simp) _ _) _ _)).1 _ _ hraise
    · exact (hru.trans ((State.modRamp_rampOnly u n _).trans
        (State.eachLane_rampOnly (fun k t => State.writeHead_lane_rampOnly t n k _) _ _))).1
  · intro hs hc
    have : u.settledDue n = true := by
      rw [hdue, List.all_eq_true]
      exact hs
    rw [heq, this]
    have hc' : q.timing.closeGreen = 0 := by rw [ht]; exact hc
    simp only [if_true, State.endSettle, hc']
    have h := State.endClosing_over u n
    rw [hr] at h
    refine ⟨fun e => ?_, fun e => ?_⟩
    · obtain ⟨h1, h2, h3, h4, h5, h6, h7⟩ := h.1 e
      refine ⟨h1, h2, h3, ?_, h5, h6, hru.1.trans h7⟩
      exact ⟨h4.1.trans hrate.1, h4.2.1.trans hrate.2.1, h4.2.2.1.trans hrate.2.2.1, h4.2.2.2.trans hrate.2.2.2⟩
    · obtain ⟨h1, h2⟩ := h.2 e
      refine ⟨?_, h2⟩
      have hch : ∀ c, u.chan c = s.chan c := fun c => by simp [State.chan, hru.1.chans]
      have hz : ∀ z, u.zone z = s.zone z := fun z => by simp [State.zone, hru.1.zones]
      exact ⟨hru.1.refs.trans h1.toOnlyRampAndRefs, h1.record, fun c => by rw [h1.refs, hch],
        fun z => by rw [h1.members, hz], fun z => by rw [h1.additions, hz], h1.dark⟩
  · intro e
    rw [heq]
    split
    · exact (untouched_endSettle u q (by simp) (by simp)).2 (hflush e)
    · exact hflush e

/-! ### Through the answer -/

theorem Vacated.framed {s u : State} {l : Link} {n : RampNo} (h : Vacated (s.goodFrame l) u n) (code : Byte) (r : Reply) :
    Vacated s (u.respond l code r) n where
  toOnlyRampAndRefs := h.toOnlyRampAndRefs.framed code r
  record := by simpa using h.record
  refs := fun c => by simpa using h.refs c
  members := fun z => by simpa using h.members z
  additions := fun z => by simpa using h.additions z
  dark := fun k => by simpa using h.dark k

theorem ClosingOver.framed {s u : State} {l : Link} {n : RampNo} {b : Bool} (h : ClosingOver (s.goodFrame l) u n b)
    (code : Byte) (r : Reply) : ClosingOver s (u.respond l code r) n b := by
  refine ⟨fun e => ?_, fun e => ?_⟩
  · obtain ⟨h1, h2, h3, h4, h5, h6, h7⟩ := h.1 e
    exact ⟨by simpa using h1, by simpa using h2, by simpa using h3, by simpa using h4, fun k => by simpa using h5 k,
      h6.respond l code r, h7.framed code r⟩
  · exact ⟨(h.2 e).1.framed code r, (h.2 e).2.respond l code r⟩

theorem ClosingEntered.framed {s u : State} {l : Link} {n : RampNo} {p : Plan} {b : Bool} {cause : RampCause}
    (h : ClosingEntered (s.goodFrame l) u n p b cause) (code : Byte) (r : Reply) :
    ClosingEntered s (u.respond l code r) n p b cause where
  settling := fun e => by
    obtain ⟨h1, h2, h3, h4, h5, h6, h7, h8⟩ := h.settling (by simpa using e)
    exact ⟨by simpa using h1, by simpa using h2, by simpa using h3, by simpa using h4, by simpa using h5,
      fun k => by simpa using h6 k, h7.respond l code r, h8.framed code r⟩
  green := fun e c => by
    obtain ⟨h1, h2, h3, h4, h5, h6, h7, h8⟩ := h.green (by simpa using e) c
    exact ⟨by simpa using h1, by simpa using h2, by simpa using h3, by simpa using h4, by simpa using h5,
      fun k hk => by simpa using h6 k hk, h7.respond l code r, h8.framed code r⟩
  atOnce := fun e c => (h.atOnce (by simpa using e) c).framed code r
  flush := fun e => (h.flush (by simpa using e)).respond l code r

end Sys2Proof.Machine
end

