-- ==== Sys2Proof/Laws/Plans.lean ====
section
/-! SUPPORT. The source of a plan (R12) and the swap of a plan with its references (R15, R16). -/

namespace Sys2Proof.Machine

/-! ### The source -/

theorem State.planSource_ok {s : State} {source slot : Byte} {img : Table Byte 64}
    (h : s.planSource source slot = (s, .ok img)) (t : State) (e1 : t.stage = s.stage) (e2 : t.store = s.store)
    (e3 : t.slots = s.slots) : t.planSource source slot = (t, .ok img) := by
  unfold State.planSource at h ⊢
  rw [e1]
  split
  · next e =>
    rw [if_pos e] at h
    revert h
    split <;> intro h <;> simp_all
  · next e =>
    rw [if_neg e] at h
    split
    · next e' =>
      rw [if_pos e'] at h
      revert h
      split
      · intro h; simp_all
      · next k _ =>
        have hf : t.slotInFlight k = s.slotInFlight k := by simp [State.slotInFlight, e2]
        have hk : t.slot k = s.slot k := by simp [State.slot, e3]
        rw [hf]
        split
        · intro h; simp_all
        · unfold State.readSlot
          rw [hk]
          split
          · intro h; simp_all
          · intro h; simp_all
          · split
            · intro h; simp_all
            · intro h; simp_all
    · next e' => rw [if_neg e'] at h; simp_all

theorem State.checkPlan_ok {s : State} {n : RampNo} {img : Table Byte 64} (h : structureOk n img = true)
    (c : s.conflicts n (settlePlan n img).plan.layout.claims = false) : s.checkPlan n img = .ok (settlePlan n img) := by
  simp [State.checkPlan, h, c]

theorem State.conflicts_of_chans {s t : State} (e : t.chans = s.chans) (n : RampNo) (claims : List (Chan × Kind)) :
    t.conflicts n claims = s.conflicts n claims := by simp [State.conflicts, State.chan, e]

theorem State.withPlan_ok {s : State} {n : RampNo} {source slot : Byte} {img : Table Byte 64} {f : State → Settled → State}
    (h : s.planSource source slot = (s, .ok img)) (hs : structureOk n img = true)
    (c : s.conflicts n (settlePlan n img).plan.layout.claims = false) :
    s.withPlan n source slot f = (f s (settlePlan n img), .with (marksBytes (settlePlan n img).marks)) := by
  simp [State.withPlan, h, State.checkPlan_ok hs c]

/-! ### The swap (R15, R16) -/

theorem State.releaseClaims_refsOnly (s : State) (n : RampNo) (claims : List (Chan × Kind)) :
    RefsOnly n s (claims.foldl (fun t p => t.modChan p.1 fun c => c.releaseKind (.ramp n) p.2) s) := by
  induction claims generalizing s with
  | nil => exact RefsOnly.refl n s
  | cons p rest ih =>
    refine RefsOnly.trans ?_ (ih _)
    refine ⟨⟨by constructor <;> rfl, fun x => ?_, fun z => by simp, fun m _ => by simp, fun h _ => by simp⟩,
      SetsOnly.of_links (by simp)⟩
    rw [State.chan_modChan]
    split
    · next e => subst e; rfl
    · rfl

theorem State.refs_releaseClaims (s : State) (n : RampNo) (claims : List (Chan × Kind)) (c : Chan) :
    ((claims.foldl (fun t p => t.modChan p.1 fun c => c.releaseKind (.ramp n) p.2) s).chan c).refs =
      (s.chan c).refs.filter fun p => decide (¬(p.1 = .ramp n ∧ (c, p.2) ∈ claims)) := by
  induction claims generalizing s with
  | nil => exact (List.filter_eq_self.2 (by simp)).symm
  | cons q rest ih =>
    rw [List.foldl_cons, ih, State.chan_modChan]
    by_cases e : c = q.1
    · subst e
      rw [if_pos rfl]
      simp only [Channel.releaseKind, List.filter_filter]
      apply List.filter_congr
      intro p _
      obtain ⟨a, b⟩ := p
      obtain ⟨x, y⟩ := q
      simp only [List.mem_cons, Prod.mk.injEq, true_and]
      by_cases ha : a = .ramp n <;> by_cases hb : b = y <;> simp [ha, hb]
    · rw [if_neg e]
      apply List.filter_congr
      intro p _
      have : ¬ (c, p.2) = q := fun x => e (by rw [← x])
      simp [this]

theorem State.link_releaseClaims (s : State) (n : RampNo) (claims : List (Chan × Kind)) (l : Link) :
    (claims.foldl (fun t p => t.modChan p.1 fun c => c.releaseKind (.ramp n) p.2) s).link l = s.link l := by
  induction claims generalizing s with
  | nil => rfl
  | cons p rest ih => rw [List.foldl_cons, ih]; simp

theorem State.rampsHeads_releaseClaims (s : State) (n : RampNo) (claims : List (Chan × Kind)) :
    (claims.foldl (fun t p => t.modChan p.1 fun c => c.releaseKind (.ramp n) p.2) s).ramps = s.ramps ∧
    (claims.foldl (fun t p => t.modChan p.1 fun c => c.releaseKind (.ramp n) p.2) s).heads = s.heads := by
  induction claims generalizing s with
  | nil => exact ⟨rfl, rfl⟩
  | cons p rest ih => rw [List.foldl_cons]; exact ih _

theorem State.reconcile_refsOnly (s : State) (n : RampNo) (old new : List (Chan × Kind)) :
    RefsOnly n s (s.reconcile n old new) :=
  (State.releaseClaims_refsOnly s n _).trans (State.claimAll_refsOnly _ n _ _)

theorem State.rampsHeads_reconcile (s : State) (n : RampNo) (old new : List (Chan × Kind)) :
    (s.reconcile n old new).ramps = s.ramps ∧ (s.reconcile n old new).heads = s.heads := by
  unfold State.reconcile
  simp only [State.ramps_claimAll, State.heads_claimAll]
  exact State.rampsHeads_releaseClaims s n _

/-- The references of a channel once old and new claims are reconciled (R16). -/
theorem State.refs_reconcile (s : State) (n : RampNo) (old new : List (Chan × Kind)) (c : Chan) :
    ((s.reconcile n old new).chan c).refs =
      ((s.chan c).refs.filter fun p => decide (¬(p.1 = .ramp n ∧ (c, p.2) ∈ old ∧ (c, p.2) ∉ new))) ++
      (new.filter fun p => decide (p.1 = c ∧ p ∉ old)).map fun p => (.ramp n, p.2) := by
  unfold State.reconcile
  simp only []
  rw [State.refs_claimAll, State.refs_releaseClaims]
  congr 1
  · apply List.filter_congr
    intro p _
    simp
  · rw [List.filter_filter]
    congr 1
    apply List.filter_congr
    intro p _
    simp

theorem State.carryLanes_rampOnly (s : State) (n : RampNo) (φ : LaneNo → Head → Head) (lanes : List LaneNo) :
    RampOnly n s (s.eachLane lanes fun k u => u.setHead (headOf n k) (φ k (u.head (headOf n k)))) :=
  State.eachLane_rampOnly (fun k t => State.setHead_lane_rampOnly t n k _) lanes s

theorem State.replacePlan_refsOnly (s : State) (n : RampNo) (old : Plan) (set : Settled) :
    RefsOnly n s (s.replacePlan n old set) :=
  ((((State.darken_rampOnly s n).trans (State.modRamp_rampOnly _ n _)).refs).trans (State.reconcile_refsOnly _ n _ _)).trans
    (State.carryLanes_rampOnly _ n _ _).refs

theorem State.ramp_replacePlan (s : State) (n : RampNo) (old : Plan) (set : Settled) :
    (s.replacePlan n old set).ramp n = (s.ramp n).replaced old set := by
  unfold State.replacePlan
  simp only []
  have h : ∀ (u : State) (φ : LaneNo → Head → Head) (lanes : List LaneNo),
      (u.eachLane lanes fun k v => v.setHead (headOf n k) (φ k (v.head (headOf n k)))).ramp n = u.ramp n :=
    fun u φ lanes => State.eachLane_induct (P := fun t => t.ramp n = u.ramp n) (fun k t e => by simpa using e) lanes rfl
  rw [h]
  simp only [State.ramp, (State.rampsHeads_reconcile _ n _ _).1]
  exact (State.ramp_modRamp_same _ n _).trans (by simp [State.ramp])

theorem State.refs_replacePlan (s : State) (n : RampNo) (old : Plan) (set : Settled) (c : Chan) :
    ((s.replacePlan n old set).chan c).refs =
      ((s.chan c).refs.filter fun p => decide (¬(p.1 = .ramp n ∧ (c, p.2) ∈ old.layout.claims ∧
        (c, p.2) ∉ set.plan.layout.claims))) ++
      (set.plan.layout.claims.filter fun p => decide (p.1 = c ∧ p ∉ old.layout.claims)).map fun p => (.ramp n, p.2) := by
  unfold State.replacePlan
  simp only []
  have h : ∀ (u : State) (φ : LaneNo → Head → Head) (lanes : List LaneNo),
      (u.eachLane lanes fun k v => v.setHead (headOf n k) (φ k (v.head (headOf n k)))).chan c = u.chan c :=
    fun u φ lanes => State.eachLane_induct (P := fun t => t.chan c = u.chan c) (fun k t e => by simpa using e) lanes rfl
  rw [h, State.refs_reconcile]
  have hd := (State.darken_rampOnly s n).1.chans
  simp [State.chan, hd]

theorem State.heads_replacePlan_cycle (s : State) (n : RampNo) (old : Plan) (set : Settled) (k : LaneNo) :
    ((s.replacePlan n old set).head (headOf n k)).aspect = .dark := by
  unfold State.replacePlan
  simp only []
  have hc : ∀ (f : LaneNo → Head) (a b : Table (Option Chan) 3) (j : LaneNo) (h : Head),
      (carryDemand f a b j h).aspect = h.aspect := by
    intro f a b j h
    unfold carryDemand
    repeat' split
    all_goals rfl
  refine (State.eachLane_induct (P := fun t => (t.head (headOf n k)).aspect = .dark) (fun j t e => ?_) _ ?_)
  · rw [State.head_setHead]
    split
    · next x => rw [← x]; rw [hc]; exact e
    · exact e
  · simp only [State.head, (State.rampsHeads_reconcile _ n _ _).2]
    simpa [State.head] using State.darken_dark s n k

theorem State.sets_replacePlan (s : State) (n : RampNo) (old : Plan) (set : Settled) {k : NoticeKind} (i : Nat)
    (nl : k ≠ .lamp) : Untouched k i s (s.replacePlan n old set) := by
  unfold State.replacePlan State.reconcile
  simp only []
  refine Untouched.trans ?_ (untouched_eachLane (fun j t => untouched_of_sets (fun l => by simp) k i) _ _)
  refine Untouched.trans (t := (s.darken n).modRamp n fun r => r.replaced old set) ?_ ?_
  · exact (untouched_darken s i nl n).trans (untouched_modRamp _ k i n _)
  · refine untouched_of_sets (fun l => ?_) k i
    rw [State.link_claimAll, State.link_releaseClaims]

end Sys2Proof.Machine
end

