-- ==== Sys2Proof/Laws/Zones.lean ====
section
/-! SUPPORT. What joining zones, dissolving one and evaluating them can change (05). -/

namespace Sys2Proof.Machine

theorem noRepeat_iff {α : Type} [DecidableEq α] (l : List α) : noRepeat l = true ↔ l.Nodup := by
  induction l with
  | nil => simp [noRepeat]
  | cons a rest ih => simp [noRepeat, ih]

theorem insertZone_twice (z : ZoneNo) (l : List ZoneNo) : insertZone z (insertZone z l) = insertZone z l := by
  induction l with
  | nil => simp [insertZone]
  | cons y rest ih =>
    simp only [insertZone]
    split
    · next e => simp [insertZone, e]
    · next e =>
      split
      · simp [insertZone]
      · next lt => simp [insertZone, e, lt, ih]

/-- The zone enters the joined list of each member, whatever repeats. -/
theorem State.ramp_joinAll (s : State) (z : ZoneNo) (members : List (RampNo × Nat)) (n : RampNo) :
    (s.joinAll z members).ramp n = { s.ramp n with
      joined := if n ∈ members.map (·.1) then insertZone z (s.ramp n).joined else (s.ramp n).joined } := by
  unfold State.joinAll
  induction members generalizing s with
  | nil => simp
  | cons m rest ih =>
    rw [List.foldl_cons, ih, State.ramp_modRamp]
    by_cases e : n = m.1
    · subst e
      simp [insertZone_twice]
    · rw [if_neg e]
      have : n ∈ (m :: rest).map (·.1) ↔ n ∈ rest.map (·.1) := by
        rw [List.map_cons, List.mem_cons]
        exact or_iff_right e
      simp only [this]

/-- Nothing but ramp records differs after the memberships are entered. -/
theorem State.joinAll_same (s : State) (z : ZoneNo) (members : List (RampNo × Nat)) :
    (∃ r, s.joinAll z members = { s with ramps := r }) := by
  unfold State.joinAll
  induction members generalizing s with
  | nil => exact ⟨s.ramps, rfl⟩
  | cons m rest ih =>
    rw [List.foldl_cons]
    obtain ⟨r, hr⟩ := ih (s.modRamp m.1 fun r => { r with joined := insertZone z r.joined })
    exact ⟨r, hr⟩

@[simp] theorem State.link_joinAll (s : State) (z : ZoneNo) (members : List (RampNo × Nat)) (l : Link) :
    (s.joinAll z members).link l = s.link l := by
  obtain ⟨r, h⟩ := State.joinAll_same s z members
  rw [h]
  cases l <;> rfl

@[simp] theorem State.heads_joinAll (s : State) (z : ZoneNo) (members : List (RampNo × Nat)) :
    (s.joinAll z members).heads = s.heads := by
  obtain ⟨r, h⟩ := State.joinAll_same s z members
  rw [h]

@[simp] theorem State.chans_joinAll (s : State) (z : ZoneNo) (members : List (RampNo × Nat)) :
    (s.joinAll z members).chans = s.chans := by
  obtain ⟨r, h⟩ := State.joinAll_same s z members
  rw [h]

@[simp] theorem State.zones_joinAll (s : State) (z : ZoneNo) (members : List (RampNo × Nat)) :
    (s.joinAll z members).zones = s.zones := by
  obtain ⟨r, h⟩ := State.joinAll_same s z members
  rw [h]

theorem State.joinAll_rest (s : State) (z : ZoneNo) (members : List (RampNo × Nat)) :
    RestSame s (s.joinAll z members) := by
  obtain ⟨r, h⟩ := State.joinAll_same s z members
  rw [h]
  exact RestSame.of_ramps s r

theorem State.setZone_rest (s : State) (z : ZoneNo) (r : Zone) : RestSame s (s.setZone z r) := by constructor <;> rfl

theorem State.claimAll_rest (s : State) (who : Referencer) (claims : List (Chan × Kind)) :
    RestSame s (s.claimAll who claims) := (State.claimAll_refsOnly s 0 who claims).1.toRestSame

theorem State.releaseAll_rest (s : State) (who : Referencer) : RestSame s (s.releaseAll who) := by constructor <;> rfl

theorem State.raise_rest (s : State) (k : NoticeKind) (i : Nat) (d : Detail) (live : Bool) :
    RestSame s (s.raise k i d live) := (State.raise_onlyLinks s k i d live).toRestSame

@[simp] theorem State.zones_claimAll (s : State) (who : Referencer) (claims : List (Chan × Kind)) :
    (s.claimAll who claims).zones = s.zones := by
  unfold State.claimAll
  induction claims generalizing s with
  | nil => rfl
  | cons p rest ih => rw [List.foldl_cons, ih]; simp

/-- A definition (R81): the record, the references, the memberships, the notice. -/
theorem State.defineZone_effect (s : State) (z : ZoneNo) (rec : Zone) :
    (s.defineZone z rec).zone z = rec ∧ (∀ y, y ≠ z → (s.defineZone z rec).zone y = s.zone y) ∧
    (∀ c, ((s.defineZone z rec).chan c).refs =
      (s.chan c).refs ++ ((rec.detectors.map (·, Kind.mainline)).filter fun p => decide (p.1 = c)).map
        fun p => (Referencer.zone z, p.2)) ∧
    (∀ n, (s.defineZone z rec).ramp n = { s.ramp n with
      joined := if n ∈ rec.members.map (·.1) then insertZone z (s.ramp n).joined else (s.ramp n).joined }) ∧
    (s.defineZone z rec).heads = s.heads ∧ RestSame s (s.defineZone z rec) ∧ SetsOnly s (s.defineZone z rec) ∧
    Raised (s.defineZone z rec) .zone z.val (.zoneChanged rec.state rec.r rec.unable .defined) rec.live := by
  have hz : ((((s.setZone z rec).claimAll (.zone z) (rec.detectors.map (·, Kind.mainline))).joinAll z
      rec.members).zone z) = rec := by simp [State.zone, State.setZone]
  refine ⟨?_, fun y e => ?_, fun c => ?_, fun n => ?_, ?_, ?_, ?_, ?_⟩
  · simpa [State.defineZone, State.zoneChanged] using hz
  · simp [State.defineZone, State.zoneChanged, State.zone, State.setZone, Table.get_set_other _ _ e]
  · have := State.refs_claimAll (s.setZone z rec) (.zone z) (rec.detectors.map (·, Kind.mainline)) c
    simpa [State.defineZone, State.zoneChanged, State.chan] using this
  · have := State.ramp_joinAll ((s.setZone z rec).claimAll (.zone z) (rec.detectors.map (·, Kind.mainline))) z rec.members n
    simpa [State.defineZone, State.zoneChanged, State.ramp] using this
  · simp [State.defineZone, State.zoneChanged]
  · exact (((State.setZone_rest s z rec).trans (State.claimAll_rest _ _ _)).trans (State.joinAll_rest _ _ _)).trans
      (State.raise_rest _ _ _ _ _)
  · exact SetsOnly.trans (SetsOnly.of_links (t := ((s.setZone z rec).claimAll (.zone z)
      (rec.detectors.map (·, Kind.mainline))).joinAll z rec.members) (fun l => by simp)) (State.raise_setsOnly _ _ _ _ _)
  · have := raised_raise (((s.setZone z rec).claimAll (.zone z) (rec.detectors.map (·, Kind.mainline))).joinAll z
      rec.members) .zone z.val (.zoneChanged rec.state rec.r rec.unable .defined) rec.live
    simpa [State.defineZone, State.zoneChanged, hz] using this

/-- A dissolution (R85): the VACANT record, the references and memberships gone, the notice. -/
theorem State.dissolveZone_effect (s : State) (z : ZoneNo) :
    (s.dissolveZone z).zone z = Zone.vacantRecord ∧ (∀ y, y ≠ z → (s.dissolveZone z).zone y = s.zone y) ∧
    (∀ c, ((s.dissolveZone z).chan c).refs = (s.chan c).refs.filter fun p => decide (p.1 ≠ .zone z)) ∧
    (∀ n, (s.dissolveZone z).ramp n = (s.ramp n).leaveZone z) ∧ (s.dissolveZone z).heads = s.heads ∧
    RestSame s (s.dissolveZone z) ∧ SetsOnly s (s.dissolveZone z) ∧
    Raised (s.dissolveZone z) .zone z.val (.zoneChanged .vacant 0 false .dissolved) false := by
  have hz : ((({ s.setZone z Zone.vacantRecord with ramps := s.ramps.map fun r => r.leaveZone z } : State).releaseAll
      (.zone z)).zone z) = Zone.vacantRecord := by simp [State.zone, State.setZone]
  refine ⟨?_, fun y e => ?_, fun c => ?_, fun n => ?_, ?_, ?_, ?_, ?_⟩
  · simpa [State.dissolveZone, State.zoneChanged] using hz
  · simp [State.dissolveZone, State.zoneChanged, State.zone, State.setZone, Table.get_set_other _ _ e]
  · have := State.refs_releaseAll ({ s.setZone z Zone.vacantRecord with ramps := s.ramps.map fun r => r.leaveZone z })
      (.zone z) c
    simpa [State.dissolveZone, State.zoneChanged, State.chan] using this
  · simp [State.dissolveZone, State.zoneChanged, State.ramp]
  · simp [State.dissolveZone, State.zoneChanged]
  · exact (((State.setZone_rest s z _).trans (RestSame.of_ramps _ _)).trans (State.releaseAll_rest _ _)).trans
      (State.raise_rest _ _ _ _ _)
  · refine SetsOnly.trans (SetsOnly.of_links (fun l => ?_)) (State.raise_setsOnly _ _ _ _ _)
    cases l <;> rfl
  · unfold State.dissolveZone State.zoneChanged
    simp only []
    rw [hz]
    exact raised_raise _ _ _ _ _

/-! ### Evaluation (R87 to R93) -/

/-- An evaluation writes zone `z`, zones joined lists and the pending sets, nothing else. -/
structure ZonesOnly (s t : State) : Prop extends RestSame s t where
  chans : t.chans = s.chans
  heads : t.heads = s.heads
  ramps : ∀ n, t.ramp n = { s.ramp n with joined := (t.ramp n).joined }
  sets : SetsOnly s t

theorem ZonesOnly.refl (s : State) : ZonesOnly s s := ⟨RestSame.refl s, rfl, rfl, fun _ => rfl, SetsOnly.refl s⟩

theorem ZonesOnly.trans {s t u : State} (h : ZonesOnly s t) (k : ZonesOnly t u) : ZonesOnly s u :=
  ⟨h.toRestSame.trans k.toRestSame, k.chans.trans h.chans, k.heads.trans h.heads,
    fun n => by rw [k.ramps n, h.ramps n], h.sets.trans k.sets⟩

theorem State.evaluateZone_zonesOnly (s : State) (sum : Summary) (z : ZoneNo) :
    ZonesOnly s (s.evaluateZone sum z).1 := by
  have h1 : ∀ (t : State) (m : List (RampNo × Nat)), ZonesOnly t (t.joinAll z m) := fun t m =>
    ⟨State.joinAll_rest t z m, by simp, by simp, fun n => by rw [State.ramp_joinAll],
      SetsOnly.of_links (fun l => by simp)⟩
  have h2 : ∀ (t : State) (r : Zone), ZonesOnly t (t.setZone z r) := fun t r =>
    ⟨State.setZone_rest t z r, rfl, rfl, fun n => by simp, SetsOnly.of_links (fun l => by simp)⟩
  have h3 : ∀ (t : State) (k : NoticeKind) (i : Nat) (d : Detail) (live : Bool), ZonesOnly t (t.raise k i d live) :=
    fun t k i d live => ⟨State.raise_rest t k i d live, rfl, rfl, fun n => by simp, State.raise_setsOnly t k i d live⟩
  unfold State.evaluateZone
  simp only []
  split
  · exact ZonesOnly.refl s
  · split
    · exact (((h1 _ _).trans (h2 _ _)).trans (h2 _ _)).trans (h3 _ _ _ _ _)
    · exact ((h1 _ _).trans (h2 _ _)).trans (h2 _ _)

theorem State.evaluateZones_zonesOnly (s : State) (sum : Summary) : ZonesOnly s (s.evaluateZones sum).1 := by
  unfold State.evaluateZones
  have key : ∀ (l : List ZoneNo) (acc : State × List BulletinEntry), ZonesOnly s acc.1 →
      ZonesOnly s (l.foldl (evaluateNext sum) acc).1 := by
    intro l
    induction l with
    | nil => intro acc h; exact h
    | cons z rest ih => intro acc h; exact ih _ (h.trans (State.evaluateZone_zonesOnly acc.1 sum z))
  exact key _ _ (ZonesOnly.refl s)

/-! ### The merge of a zone amendment (R84) -/

/-- A weight written for a ramp is the one its list then holds (R84). -/
theorem weightOf_putWeight (n m : RampNo) (w : Nat) (l : List (RampNo × Nat)) :
    weightOf n (putWeight m w l) = if n = m then some w else weightOf n l := by
  induction l with
  | nil => by_cases h : n = m <;> simp [putWeight, weightOf, h, eq_comm]
  | cons a l ih =>
    unfold putWeight
    by_cases e : a.1 = m
    · rw [if_pos e]
      by_cases h : n = m
      · subst h; simp [weightOf]
      · have : ¬ m = n := fun x => h x.symm
        simp [weightOf, h, this, e]
    · rw [if_neg e]
      unfold weightOf at ih ⊢
      by_cases h : a.1 = n
      · have : ¬ n = m := fun x => e (h.trans x)
        simp [h, this]
      · simp [h, ih]

/-- A weight written keeps one weight for each ramp and names no other (R84). -/
theorem putWeight_keys (m : RampNo) (w : Nat) (l : List (RampNo × Nat)) (h : noRepeat (l.map (·.1)) = true) :
    noRepeat ((putWeight m w l).map (·.1)) = true ∧ ∀ n, n ∈ (putWeight m w l).map (·.1) → n = m ∨ n ∈ l.map (·.1) := by
  induction l with
  | nil => simp [putWeight, noRepeat]
  | cons a l ih =>
    simp only [List.map_cons, noRepeat, Bool.and_eq_true, Bool.not_eq_true'] at h
    obtain ⟨i1, i2⟩ := ih h.2
    unfold putWeight
    by_cases e : a.1 = m
    · rw [if_pos e]; subst e
      refine ⟨by simp only [List.map_cons, noRepeat]; rw [h.1, h.2]; rfl, by simp⟩
    · rw [if_neg e]
      constructor
      · simp only [List.map_cons, noRepeat, Bool.and_eq_true, Bool.not_eq_true']
        refine ⟨?_, i1⟩
        rw [← Bool.not_eq_true, List.contains_iff_mem]
        intro hm
        rcases i2 _ hm with x | x
        · exact e x
        · rw [← List.contains_iff_mem, h.1] at x; cases x
      · intro n hn
        simp only [List.map_cons, List.mem_cons] at hn ⊢
        rcases hn with x | x
        · exact Or.inr (Or.inl x)
        · rcases i2 _ x with y | y
          · exact Or.inl y
          · exact Or.inr (Or.inr y)

/-- The weight that two lists in a row hold for a ramp. -/
theorem weightOf_append (n) (a b : List (RampNo × Nat)) : weightOf n (a ++ b) = (weightOf n a).or (weightOf n b) := by
  simp [weightOf, List.find?_append, Option.map_or]

/-- The last weight that a longer list gives a ramp. -/
theorem lastWeight_cons (n : RampNo) (m : RampNo × Nat) (l) :
    lastWeight n (m :: l) = (lastWeight n l).or (if m.1 = n then some m.2 else none) := by
  simp only [lastWeight, List.reverse_cons, weightOf_append]
  congr 1
  by_cases h : m.1 = n <;> simp [weightOf, h]

/-- All the weight changes of a command merged into a pending amendment (R84). -/
theorem ZoneAmendment.mergeWeights_effect (weights : List (RampNo × Nat)) (a : ZoneAmendment) :
    let b := weights.foldl ZoneAmendment.mergeWeight a
    b.oc = a.oc ∧ b.gz = a.gz ∧ b.rmax = a.rmax ∧
    b.additions = (a.additions.map fun m => (m.1, (lastWeight m.1 weights).getD m.2)) ∧
    (∀ n, weightOf n b.weights = if n ∈ a.additions.map (·.1) then weightOf n a.weights
      else (lastWeight n weights).or (weightOf n a.weights)) ∧
    (noRepeat (a.weights.map (·.1)) = true → noRepeat (b.weights.map (·.1)) = true) := by
  induction weights generalizing a with
  | nil => simp [lastWeight, weightOf]
  | cons m l ih =>
    simp only [List.foldl_cons]
    obtain ⟨i1, i2, i3, i4, i5, i6⟩ := ih (a.mergeWeight m)
    by_cases h : m.1 ∈ a.additions.map (·.1)
    · have hm : a.mergeWeight m = { a with additions := replaceWeight m.1 m.2 a.additions } := by
        unfold ZoneAmendment.mergeWeight
        rw [if_pos]
        obtain ⟨x, hx, e⟩ := List.mem_map.1 h
        rw [List.any_eq_true]; exact ⟨x, hx, decide_eq_true e⟩
      rw [hm] at i1 i2 i3 i4 i5 i6 ⊢
      have hk : (replaceWeight m.1 m.2 a.additions).map (·.1) = a.additions.map (·.1) := by
        unfold replaceWeight
        rw [List.map_map]; apply List.map_congr_left; intro x _
        by_cases e : x.1 = m.1 <;> simp [e]
      refine ⟨i1, i2, i3, ?_, ?_, i6⟩
      · rw [i4]; simp only [replaceWeight, List.map_map]; apply List.map_congr_left; intro x _
        by_cases e : x.1 = m.1
        · simp [lastWeight_cons, e]
        · have : ¬ m.1 = x.1 := fun y => e y.symm
          simp [lastWeight_cons, e, this]
      · intro n; rw [i5 n]; simp only [hk]
        by_cases hn : n ∈ a.additions.map (·.1)
        · simp [hn]
        · have : ¬ m.1 = n := fun y => hn (y ▸ h)
          simp only [hn, if_false, lastWeight_cons, this, Option.or_none]
    · have hm : a.mergeWeight m = { a with weights := putWeight m.1 m.2 a.weights } := by
        unfold ZoneAmendment.mergeWeight
        rw [if_neg]
        rw [List.any_eq_true]; rintro ⟨x, hx, e⟩
        exact h (List.mem_map.2 ⟨x, hx, of_decide_eq_true e⟩)
      rw [hm] at i1 i2 i3 i4 i5 i6 ⊢
      refine ⟨i1, i2, i3, ?_, ?_, fun hn => i6 (putWeight_keys _ _ _ hn).1⟩
      · rw [i4]; apply List.map_congr_left; intro x hx
        have : ¬ m.1 = x.1 := fun y => h (List.mem_map.2 ⟨x, hx, y.symm⟩)
        simp [lastWeight_cons, this]
      · intro n; rw [i5 n]
        by_cases hn : n ∈ a.additions.map (·.1)
        · have : ¬ n = m.1 := fun y => h (y ▸ hn)
          simp only [hn, if_true, weightOf_putWeight, this, if_false]
        · simp only [hn, if_false, weightOf_putWeight, lastWeight_cons]
          by_cases e : n = m.1
          · subst e; simp
          · have : ¬ m.1 = n := fun y => e y.symm
            simp [e, this]

/-! ### What an evaluation does (R84, R87 to R93) -/

/-- The weight changes of a pending amendment written over a member list (R84, R87). -/
theorem replaceWeights_eq (weights members : List (RampNo × Nat)) :
    (weights.foldl (fun m w => replaceWeight w.1 w.2 m) members) =
      members.map fun m => (m.1, (lastWeight m.1 weights).getD m.2) := by
  induction weights generalizing members with
  | nil => simp [lastWeight, weightOf]
  | cons w rest ih =>
    rw [List.foldl_cons, ih]
    unfold replaceWeight
    rw [List.map_map]
    apply List.map_congr_left
    intro x _
    by_cases e : x.1 = w.1
    · simp [lastWeight_cons, e]
    · have : ¬ w.1 = x.1 := fun y => e y.symm
      simp [lastWeight_cons, e, this]

theorem Zone.applyAmendment_applied (z : Zone) : AmendmentApplied z z.applyAmendment := by
  unfold Zone.applyAmendment
  refine ⟨fun h => by simp [h], fun a h => ?_⟩
  simp only [h, replaceWeights_eq]

/-- An evaluation reads of the ramps which of them are eligible, nothing else (R90). -/
theorem Zone.evaluate_congr (z : Zone) (sum : Summary) {f g : RampNo → Ramp} (h : ∀ n, (f n).eligible = (g n).eligible) :
    z.evaluate sum f = z.evaluate sum g := by
  unfold Zone.evaluate
  simp only [h]

/-- The evaluation of one zone that is not VACANT: its record, its entry, its new members' joined lists, its notice (R87 to R93). -/
theorem State.evaluateZone_effect {s : State} (sum : Summary) {z : ZoneNo} (h : (s.zone z).state ≠ .vacant) :
    (s.evaluateZone sum z).1.zone z = (s.evaluation sum s.ramp z).zone ∧
    (∀ y, y ≠ z → (s.evaluateZone sum z).1.zone y = s.zone y) ∧
    (s.evaluateZone sum z).2 = some ⟨z, (s.evaluation sum s.ramp z).zone.state, (s.evaluation sum s.ramp z).zone.r,
      (s.evaluation sum s.ramp z).shares⟩ ∧
    (∀ n, ((s.evaluateZone sum z).1.ramp n).joined =
      if n ∈ (s.zone z).additions.map (·.1) then insertZone z (s.ramp n).joined else (s.ramp n).joined) ∧
    ((s.evaluation sum s.ramp z).zone.state ≠ (s.zone z).state ∨ (s.evaluation sum s.ramp z).zone.unable ≠ (s.zone z).unable →
      Raised (s.evaluateZone sum z).1 .zone z.val
        (.zoneEvaluated (s.evaluation sum s.ramp z).zone.state (s.evaluation sum s.ramp z).zone.r
          (s.evaluation sum s.ramp z).zone.unable sum.number) (s.evaluation sum s.ramp z).zone.live) ∧
    ((s.evaluation sum s.ramp z).zone.state = (s.zone z).state → (s.evaluation sum s.ramp z).zone.unable = (s.zone z).unable →
      ∀ l, (s.evaluateZone sum z).1.link l = s.link l) := by
  have he : (((s.joinAll z (s.zone z).additions).setZone z (s.zone z).applyAmendment).zone z).evaluate sum
      ((s.joinAll z (s.zone z).additions).setZone z (s.zone z).applyAmendment).ramp = s.evaluation sum s.ramp z := by
    have hz : ((s.joinAll z (s.zone z).additions).setZone z (s.zone z).applyAmendment).zone z = (s.zone z).applyAmendment := by
      simp [State.zone, State.setZone]
    rw [hz]
    refine Zone.evaluate_congr _ _ fun n => ?_
    simp [State.ramp_joinAll, Ramp.eligible]
  unfold State.evaluateZone
  rw [if_neg h]
  simp only [he]
  split
  · next c =>
    refine ⟨by simp [State.zone, State.setZone], fun y e => by simp [State.zone, State.setZone, Table.get_set_other _ _ e],
      trivial, fun n => by simp [State.ramp_joinAll], fun _ => raised_raise _ _ _ _ _, fun x y => ?_⟩
    rcases c with c | c
    · exact absurd x c
    · exact absurd y c
  · next c =>
    exact ⟨by simp [State.zone, State.setZone], fun y e => by simp [State.zone, State.setZone, Table.get_set_other _ _ e],
      trivial, fun n => by simp [State.ramp_joinAll], fun x => absurd x c, fun _ _ l => by simp⟩

end Sys2Proof.Machine
end

