-- ==== Sys2Proof/Laws/Detector.lean ====
section
/-! SUPPORT. What the reports of the DTU, the fault declarations and the window close can change (R46, R50, R119). -/

namespace Sys2Proof.Machine

/-! ### Reports change ramps, heads and pending sets alone (R46) -/

/-- Nothing but ramp records, heads and the pending sets differs. -/
structure RampsOnly (s t : State) : Prop extends RestSame s t where
  chans : t.chans = s.chans
  zones : t.zones = s.zones
  sets : SetsOnly s t

theorem RampsOnly.refl (s : State) : RampsOnly s s := ⟨RestSame.refl s, rfl, rfl, SetsOnly.refl s⟩

theorem RampsOnly.trans {s t u : State} (h : RampsOnly s t) (k : RampsOnly t u) : RampsOnly s u :=
  ⟨h.toRestSame.trans k.toRestSame, k.chans.trans h.chans, k.zones.trans h.zones, h.sets.trans k.sets⟩

theorem RampOnly.rampsOnly {n : RampNo} {s t : State} (h : RampOnly n s t) : RampsOnly s t :=
  ⟨h.1.toRestSame, h.1.chans, h.1.zones, h.2⟩

theorem RampsOnly.of_ramps (s : State) (r : Table Ramp 16) : RampsOnly s { s with ramps := r } :=
  ⟨RestSame.of_ramps s r, rfl, rfl, SetsOnly.of_links (fun l => by cases l <;> rfl)⟩

theorem State.eachRamp_rampsOnly {f : RampNo → State → State} (hf : ∀ n t, RampsOnly t (f n t)) (s : State) :
    RampsOnly s (s.eachRamp f) :=
  State.eachRamp_induct (P := fun t => RampsOnly s t) (fun n t h => h.trans (hf n t)) (RampsOnly.refl s)

theorem State.takePassage_rampOnly (s : State) (n : RampNo) (k : LaneNo) (c : Chan) : RampOnly n s (s.takePassage n k c) := by
  unfold State.takePassage
  split
  · exact (State.modRamp_rampOnly s n _).trans (State.tryFlushExit_rampOnly _ n)
  · exact RampOnly.refl n s

theorem State.takeDemandAt_rampOnly (s : State) (n : RampNo) (c : Chan) (on : Bool) :
    RampOnly n s (s.takeDemandAt n c on) := by
  refine State.eachLane_rampOnly (fun k t => ?_) _ s
  split
  · exact State.takeDemand_rampOnly t n k on
  · exact RampOnly.refl n t

theorem State.takeHealthAt_rampOnly (s : State) (n : RampNo) (c : Chan) (h : Health) :
    RampOnly n s (s.takeHealthAt n c h) := by
  refine (State.modRamp_rampOnly s n _).trans (State.eachLane_rampOnly (fun k t => ?_) _ _)
  split
  · exact State.takeDemandHealth_rampOnly t n k h
  · exact RampOnly.refl n t

theorem State.reportHealth_rampsOnly (s : State) (c : Chan) (h : Health) : RampsOnly s (s.reportHealth c h) :=
  State.eachRamp_rampsOnly (fun n t => (State.takeHealthAt_rampOnly t n c h).rampsOnly) s

theorem State.reportOn_rampsOnly (s : State) (c : Chan) (k : Option Kind) : RampsOnly s (s.reportOn c k) := by
  unfold State.reportOn
  split
  · exact RampsOnly.of_ramps s _
  · exact State.eachRamp_rampsOnly
      (fun n t => (State.eachLane_rampOnly (fun j u => State.takePassage_rampOnly u n j c) _ t).rampsOnly) s
  · exact State.eachRamp_rampsOnly (fun n t => (State.takeDemandAt_rampOnly t n c true).rampsOnly) s
  · exact RampsOnly.of_ramps s _
  · exact RampsOnly.refl s
  · exact RampsOnly.refl s

theorem State.reportOff_rampsOnly (s : State) (c : Chan) (k : Option Kind) : RampsOnly s (s.reportOff c k) := by
  unfold State.reportOff
  split
  · exact State.eachRamp_rampsOnly (fun n t => (State.takeDemandAt_rampOnly t n c false).rampsOnly) s
  · exact RampsOnly.of_ramps s _
  all_goals exact RampsOnly.refl s

/-! ### Declarations (R119, R120) -/

theorem State.lampNotice_rampOnly (s : State) (h : HeadNo) (f : FaultClass) : RampOnly (headRamp h) s (s.lampNotice h f) :=
  State.raise_rampOnly s _ _ _ _ _

theorem State.dealWith_rampOnly (s : State) (h : HeadNo) (f : FaultClass) (a : FaultAction) :
    RampOnly (headRamp h) s (s.dealWith h f a) := by
  unfold State.dealWith
  split
  · exact State.enterLockout_rampOnly s _ h f
  · exact State.raise_rampOnly s _ _ _ _ _
  · exact State.lampNotice_rampOnly s h f
  · exact RampOnly.refl _ s

theorem State.declare_rampOnly (s : State) (h : HeadNo) (f : FaultClass) : RampOnly (headRamp h) s (s.declare h f) := by
  unfold State.declare
  split
  · exact State.setHead_rampOnly s h _
  · exact (State.setHead_rampOnly s h _).trans (State.dealWith_rampOnly _ h f _)

theorem State.tryDeclare_rampOnly (s : State) (h : HeadNo) : RampOnly (headRamp h) s (s.tryDeclare h) := by
  unfold State.tryDeclare
  split
  · exact RampOnly.refl _ s
  · exact State.declare_rampOnly s h _

/-- What every head's operation keeps, the whole keeps. -/
theorem State.eachHead_induct {P : State → Prop} {f : HeadNo → State → State} (hf : ∀ h t, P t → P (f h t)) {s : State}
    (hs : P s) : P (s.eachHead f) := by
  unfold State.eachHead
  generalize List.finRange 48 = l
  induction l generalizing s with
  | nil => exact hs
  | cons h rest ih => exact ih (hf h s hs)

theorem State.markDue_rampsOnly (s : State) : RampsOnly s s.markDue :=
  ⟨by constructor <;> rfl, rfl, rfl, SetsOnly.of_links (fun l => by cases l <;> rfl)⟩

theorem State.declareAll_rampsOnly (s : State) : RampsOnly s s.declareAll :=
  State.eachHead_induct (P := fun t => RampsOnly s t)
    (fun h t k => k.trans (State.tryDeclare_rampOnly t h).rampsOnly) s.markDue_rampsOnly

theorem State.readLamps_rampsOnly (s : State) : RampsOnly s s.readLamps ∧ s.readLamps.ramps = s.ramps :=
  State.eachHead_induct (P := fun t => RampsOnly s t ∧ t.ramps = s.ramps)
    (fun h t k => ⟨k.1.trans (State.writeHead_rampOnly t h _).rampsOnly, (State.writeHead_ramps t h _).trans k.2⟩)
    ⟨RampsOnly.refl s, rfl⟩

/-- A reading of the lamps rewrites every head with its own readings. -/
theorem State.head_readLamps (s : State) (h : HeadNo) : s.readLamps.head h = (s.head h).reprove (s.head h) := by
  have key : ∀ (l : List HeadNo) (t : State), l.Nodup →
      (l.foldl (fun t h => t.writeHead h (t.head h)) t).head h =
        if h ∈ l then (t.head h).reprove (t.head h) else t.head h := by
    intro l
    induction l with
    | nil => simp
    | cons g rest ih =>
      intro t nd
      obtain ⟨hg, nd⟩ := List.nodup_cons.1 nd
      rw [List.foldl_cons, ih _ nd, State.head_writeHead]
      by_cases e : h = g
      · subst e; simp [hg]
      · simp [e]
  have := key (List.finRange 48) s (List.nodup_finRange 48)
  simpa [State.readLamps, State.eachHead] using this

/-! ### A qualification (R45) -/

/-- Nothing but channel and ramp records, heads and the pending sets differs. -/
structure ChannelsOnly (s t : State) : Prop extends RestSame s t where
  zones : t.zones = s.zones
  sets : SetsOnly s t

theorem ChannelsOnly.refl (s : State) : ChannelsOnly s s := ⟨RestSame.refl s, rfl, SetsOnly.refl s⟩

theorem ChannelsOnly.trans {s t u : State} (h : ChannelsOnly s t) (k : ChannelsOnly t u) : ChannelsOnly s u :=
  ⟨h.toRestSame.trans k.toRestSame, k.zones.trans h.zones, h.sets.trans k.sets⟩

theorem RampsOnly.channels {s t : State} (h : RampsOnly s t) : ChannelsOnly s t := ⟨h.toRestSame, h.zones, h.sets⟩

theorem State.modChan_channelsOnly (s : State) (c : Chan) (f : Channel → Channel) : ChannelsOnly s (s.modChan c f) :=
  ⟨by constructor <;> rfl, rfl, SetsOnly.of_links (fun l => by cases l <;> rfl)⟩

theorem State.noteQualified_channelsOnly (s : State) (c : Chan) : ChannelsOnly s (s.noteQualified c) := by
  unfold State.noteQualified
  split
  · exact (State.modChan_channelsOnly s c _).trans (State.reportOn_rampsOnly _ c _).channels
  · exact ChannelsOnly.refl s

theorem State.releaseCalled_rampsOnly (s : State) (c : Chan) : RampsOnly s (s.releaseCalled c) :=
  State.eachRamp_rampsOnly (fun n t => by
    split
    · exact (State.tryRelease_rampOnly t n).rampsOnly
    · exact RampsOnly.refl t) s

theorem State.releases_rampsOnly (s : State) : RampsOnly s s.releases :=
  State.eachRamp_rampsOnly (fun n t => (State.tryRelease_rampOnly t n).rampsOnly) s

theorem State.tryQualify_channelsOnly (s : State) (c : Chan) : ChannelsOnly s (s.tryQualify c) := by
  unfold State.tryQualify
  split
  · exact (State.noteQualified_channelsOnly s c).trans (State.releaseCalled_rampsOnly _ c).channels
  · exact State.noteQualified_channelsOnly s c

/-- A qualification writes the record of its own channel. -/
theorem State.chan_noteQualified (s : State) (c x : Chan) :
    (s.noteQualified c).chan x = if x = c then (s.chan c).qualify s.settings else s.chan x := by
  unfold State.noteQualified Channel.qualify
  split
  · next h =>
    have e := (State.reportOn_rampsOnly (s.modChan c Channel.markQualified) c (s.chan c).sampling).chans
    rw [State.chan, e]
    exact State.chan_modChan s c x Channel.markQualified
  · split
    · next e => rw [e]
    · rfl

theorem State.chan_tryQualify (s : State) (c x : Chan) :
    (s.tryQualify c).chan x = if x = c then (s.chan c).qualify s.settings else s.chan x := by
  rw [← State.chan_noteQualified]
  unfold State.tryQualify
  split
  · rw [State.chan, (State.releaseCalled_rampsOnly (s.noteQualified c) c).chans]; rfl
  · rfl

theorem State.tryStuck_channelsOnly (s : State) (c : Chan) : ChannelsOnly s (s.tryStuck c) := by
  unfold State.tryStuck
  split
  · exact State.modChan_channelsOnly s c _
  · exact ChannelsOnly.refl s

theorem State.chan_tryStuck (s : State) (c x : Chan) :
    (s.tryStuck c).chan x =
      if x = c then (if (s.chan c).stuckDue s.settings then (s.chan c).markStuck else s.chan c) else s.chan x := by
  unfold State.tryStuck
  split
  · exact State.chan_modChan s c x Channel.markStuck
  · split
    · next e => rw [e]
    · rfl

/-! ### The window close (R50) -/

theorem State.eachChan_induct {P : State → Prop} {f : Chan → State → State} (hf : ∀ c t, P t → P (f c t)) {s : State}
    (hs : P s) : P (s.eachChan f) := by
  unfold State.eachChan
  generalize List.finRange 64 = l
  induction l generalizing s with
  | nil => exact hs
  | cons c rest ih => exact ih (hf c s hs)

theorem State.detectorNotices_onlyLinks (s : State) (old mid : Table Channel 64) :
    OnlyLinks s (s.detectorNotices old mid) ∧ SetsOnly s (s.detectorNotices old mid) := by
  unfold State.detectorNotices
  refine State.eachChan_induct (P := fun t => OnlyLinks s t ∧ SetsOnly s t) (fun c t h => ?_) ⟨OnlyLinks.refl s, SetsOnly.refl s⟩
  split
  · exact h
  · exact ⟨h.1.trans (State.raise_onlyLinks t _ _ _ _), h.2.trans (State.raise_setsOnly t _ _ _ _)⟩

theorem State.healthReports_rampsOnly (s : State) (old : Table Channel 64) : RampsOnly s (s.healthReports old) := by
  unfold State.healthReports
  refine State.eachChan_induct (P := fun t => RampsOnly s t) (fun c t h => ?_) (RampsOnly.refl s)
  split
  · exact h.trans (State.reportHealth_rampsOnly t _ _)
  · exact h

/-- A channel operation that rewrites the channel's own record by `φ`, under settings it keeps. -/
theorem State.eachChan_chans {f : Chan → State → State} {φ : Settings → Channel → Channel}
    (hk : ∀ c t, ChannelsOnly t (f c t))
    (hf : ∀ c t x, (f c t).chan x = if x = c then φ t.settings (t.chan c) else t.chan x) (s : State) :
    ChannelsOnly s (s.eachChan f) ∧ ∀ x, (s.eachChan f).chan x = φ s.settings (s.chan x) := by
  have key : ∀ (l : List Chan) (t : State), l.Nodup → ChannelsOnly t (l.foldl (fun t c => f c t) t) ∧
      ∀ x, (l.foldl (fun t c => f c t) t).chan x = if x ∈ l then φ t.settings (t.chan x) else t.chan x := by
    intro l
    induction l with
    | nil => intro t _; exact ⟨ChannelsOnly.refl t, fun x => by simp⟩
    | cons c rest ih =>
      intro t nd
      obtain ⟨hc, nd⟩ := List.nodup_cons.1 nd
      obtain ⟨h1, h2⟩ := ih (f c t) nd
      refine ⟨(hk c t).trans h1, fun x => ?_⟩
      rw [List.foldl_cons, h2 x, hf, (hk c t).settings]
      by_cases e : x = c
      · subst e; simp [hc]
      · simp [e]
  obtain ⟨h1, h2⟩ := key (List.finRange 64) s (List.nodup_finRange 64)
  exact ⟨h1, fun x => by simpa [State.eachChan] using h2 x⟩

/-- The readings of a window completed before its close: each record complete, ramps, heads and pending sets as their reports leave
them, nothing else changed. -/
theorem State.finishReadings_effect (s : State) :
    ChannelsOnly s s.finishReadings ∧ ∀ x, s.finishReadings.chan x = (s.chan x).complete s.settings := by
  obtain ⟨h1, h2⟩ := State.eachChan_chans (f := fun c t => (t.noteQualified c).tryStuck c)
    (φ := fun set r => r.complete set)
    (fun c t => (State.noteQualified_channelsOnly t c).trans (State.tryStuck_channelsOnly _ c))
    (fun c t x => by
      rw [State.chan_tryStuck, (State.noteQualified_channelsOnly t c).settings]
      by_cases e : x = c
      · simp [e, State.chan_noteQualified, Channel.complete]
      · simp [e, State.chan_noteQualified]) s
  have r := State.releases_rampsOnly (s.eachChan fun c t => (t.noteQualified c).tryStuck c)
  exact ⟨h1.trans r.channels, fun x => by rw [State.chan, State.finishReadings, r.chans]; exact h2 x⟩

/-- What follows the window start in the event of a close. -/
theorem State.afterStart_effect (s : State) (old : Table Channel 64) (fresh : Bool) :
    ChannelsOnly s (s.afterStart old fresh) ∧
      ∀ x, (s.afterStart old fresh).chan x = (s.chan x).qualify s.settings := by
  have m := State.healthReports_rampsOnly s old
  obtain ⟨h1, h2⟩ := State.eachChan_chans (f := fun c t => t.noteQualified c) (φ := fun set r => r.qualify set)
    (fun c t => State.noteQualified_channelsOnly t c) (fun c t x => State.chan_noteQualified t c x) (s.healthReports old)
  have r := State.releases_rampsOnly ((s.healthReports old).eachChan fun c t => t.noteQualified c)
  have h3 := (m.channels.trans h1).trans r.channels
  have h4 : ∀ x, ((s.healthReports old).eachChan fun c t => t.noteQualified c).releases.chan x =
      (s.chan x).qualify s.settings := fun x => by
    rw [State.chan, r.chans]
    have := h2 x
    rw [m.settings, State.chan, State.chan, m.chans] at this
    exact this
  unfold State.afterStart
  simp only []
  split
  · have d := State.declareAll_rampsOnly ((s.healthReports old).eachChan fun c t => t.noteQualified c).releases
    exact ⟨h3.trans d.channels, fun x => by rw [State.chan, d.chans]; exact h4 x⟩
  · exact ⟨h3, h4⟩

theorem Channel.last_startWindow (r : Channel) (set : Settings) : (r.startWindow set).last = r.last := by
  unfold Channel.startWindow
  split
  · rfl
  · rfl
  · rfl
  · split
    · unfold Channel.carryOn Channel.clearWindow Channel.markStuck
      simp only []
      split <;> rfl
    · rfl

theorem State.takeSummary_effect (s : State) (sum : Summary) :
    ∃ b : Bulletin, b.number = sum.number ∧ (s.takeSummary sum).bulletin = some b ∧
      (s.takeSummary sum).transit = s.transit ++ [(sum, b)] ∧ (s.takeSummary sum).chans = s.chans ∧
      (s.takeSummary sum).slots = s.slots ∧ (s.takeSummary sum).stage = s.stage ∧
      (s.takeSummary sum).store = s.store ∧ (s.takeSummary sum).count = s.count ∧
      (s.takeSummary sum).winNum = s.winNum ∧ (s.takeSummary sum).settings = s.settings ∧
      (s.takeSummary sum).pendSettings = s.pendSettings ∧ (s.takeSummary sum).lastClosed = s.lastClosed ∧
      SetsOnly s (s.takeSummary sum) := by
  have h := State.evaluateZones_zonesOnly s sum
  unfold State.takeSummary
  generalize s.evaluateZones sum = out at h
  refine ⟨⟨sum.number, out.2⟩, rfl, rfl, ?_, h.chans, h.slots, h.stage, h.store, h.count, h.winNum,
    h.settings, h.pendSettings, h.lastClosed, h.sets.trans (SetsOnly.of_links (fun l => by cases l <;> rfl))⟩
  show out.1.transit ++ _ = _
  rw [h.transit]

/-- The record of a channel after a window close: judged, its entry held, taken into the window that starts, and qualified where a
new debounce does so (R42, R45, R50). -/
def Channel.closed (r : Channel) (set next : Settings) (w : Nat) : Channel :=
  (({ r.judged set with last := some ((r.judged set).entry w) } : Channel).startWindow next).qualify next

theorem Channel.last_closed (r : Channel) (set next : Settings) (w : Nat) :
    (r.closed set next w).last = some ((r.judged set).entry w) := by
  unfold Channel.closed Channel.qualify Channel.markQualified
  split <;> simp [Channel.last_startWindow]

/-- Steps 1 to 4 of a close: the judged records with their entries, summary n and bulletin n handed over, the DETECTOR notices
(R50). -/
theorem State.publish_effect (s : State) (w : Nat) :
    ∃ (sum : Summary) (b : Bulletin), sum.number = s.winNum ∧ sum.w = w ∧ b.number = s.winNum ∧
      (∀ x, sum.entries.get x = ((s.chan x).judged s.settings).entry w) ∧
      (∀ x, (s.publish w).chan x =
        { (s.chan x).judged s.settings with last := some (((s.chan x).judged s.settings).entry w) }) ∧
      (s.publish w).bulletin = some b ∧ (s.publish w).transit = s.transit ++ [(sum, b)] ∧
      (s.publish w).winNum = s.winNum ∧ (s.publish w).settings = s.settings ∧
      (s.publish w).pendSettings = s.pendSettings ∧ (s.publish w).lastClosed = some (s.winNum, w) ∧
      (s.publish w).slots = s.slots ∧ (s.publish w).stage = s.stage ∧ (s.publish w).store = s.store ∧
      (s.publish w).count = s.count ∧ SetsOnly s (s.publish w) := by
  obtain ⟨hn, hs⟩ := State.detectorNotices_onlyLinks s s.chans (s.chans.map fun r => r.judged s.settings)
  generalize hq : ({ s.detectorNotices s.chans (s.chans.map fun r => r.judged s.settings) with
    chans := (s.chans.map fun r => r.judged s.settings).map fun r => { r with last := some (r.entry w) }
    lastClosed := some (s.winNum, w) } : State) = q
  obtain ⟨b, b1, b2, b3, b4, b5, b6, b7, b8, b9, b10, b11, b12, b13⟩ := State.takeSummary_effect q
    ⟨s.winNum, w, (s.chans.map fun r => r.judged s.settings).map fun r => r.entry w⟩
  generalize hv : q.takeSummary ⟨s.winNum, w, (s.chans.map fun r => r.judged s.settings).map fun r => r.entry w⟩ = v at *
  have hp : s.publish w = v := by rw [← hv, ← hq]; rfl
  have qs : SetsOnly s q := hs.trans (by rw [← hq]; exact SetsOnly.of_links (fun l => by cases l <;> rfl))
  have hw : q.winNum = s.winNum ∧ q.settings = s.settings ∧ q.pendSettings = s.pendSettings ∧ q.transit = s.transit ∧
      q.slots = s.slots ∧ q.stage = s.stage ∧ q.store = s.store ∧ q.count = s.count ∧
      q.lastClosed = some (s.winNum, w) ∧
      q.chans = (s.chans.map fun r => r.judged s.settings).map fun r => { r with last := some (r.entry w) } := by
    rw [← hq]
    exact ⟨hn.winNum, hn.settings, hn.pendSettings, hn.transit, hn.slots, hn.stage, hn.store, hn.count, rfl, rfl⟩
  obtain ⟨w1, w2, w3, w4, w5, w6, w7, w8, w9, w10⟩ := hw
  rw [hp]
  exact ⟨⟨s.winNum, w, (s.chans.map fun r => r.judged s.settings).map fun r => r.entry w⟩, b, rfl, rfl, b1,
    fun x => by simp [State.chan], fun x => by simp [State.chan, b4, w10], b2, by rw [b3, w4], b9.trans w1, b10.trans w2,
    b11.trans w3, b12.trans w9, b5.trans w5, b6.trans w6, b7.trans w7, b8.trans w8, qs.trans b13⟩

/-- Step 1 of a close on a sampled channel (R54). -/
theorem Channel.silentCheck_eq {r : Channel} {set : Settings} {k : Kind} (h : r.sampling = some k) :
    r.silentCheck set = r.finalChecks (set.of k) := by
  unfold Channel.silentCheck Channel.finalChecks
  rw [h]
  simp only
  by_cases c : 0 < (set.of k).silent ∧ (set.of k).silent ≤ if r.counted = 0 then min (r.silentRun + 1) 255 else 0
  · rw [if_pos c, decide_eq_true c, Bool.or_true]
  · rw [if_neg c, decide_eq_false c, Bool.or_false]

/-- Step 2 moves the health and its count, nothing else (R55, R56). -/
theorem Channel.moveHealth_same (r : Channel) (set : Settings) :
    r.moveHealth set = { r with health := (r.moveHealth set).health, healthCount := (r.moveHealth set).healthCount } := by
  unfold Channel.moveHealth
  split
  · rfl
  · cases h : r.health <;> simp only <;> (repeat' split) <;> simp

/-- Steps 1 and 2 leave the references, the sampling kind and the input alone. -/
theorem Channel.judged_refs (r : Channel) (set : Settings) : (r.judged set).refs = r.refs ∧
    (r.judged set).sampling = r.sampling ∧ (r.judged set).pin = r.pin ∧ (r.judged set).presence = r.presence := by
  unfold Channel.judged
  rw [Channel.moveHealth_same]
  unfold Channel.silentCheck
  split <;> simp_all

/-- No qualification is due. -/
theorem Channel.qualify_none {r : Channel} (set : Settings) (h : r.qualifyDue set = false) : r.qualify set = r := by
  simp [Channel.qualify, h]

/-- A channel that carries on (R42, R52). -/
theorem Channel.carryOn_eq {r : Channel} {set : Settings} {j : Kind} (h : r.sampling = some j) : r.carryOn set =
    { r.clearWindow with
      stuck := r.stuck || r.presence && decide ((set.of j).maxOn * 100 ≤ r.contOn)
      faults := ⟨r.presence && (r.stuck || r.presence && decide ((set.of j).maxOn * 100 ≤ r.contOn)), false, false⟩ } := by
  unfold Channel.carryOn Channel.stuckDue
  rw [h]
  by_cases hm : (set.of j).maxOn * 100 ≤ r.contOn <;> cases hp : r.presence <;> cases hs : r.stuck <;>
    simp [hm, Channel.clearWindow, Channel.markStuck, FaultSet.empty, hp, hs]

/-- A close leaves a channel record as R42, R45, R50, R52, R54 and R56 give it. -/
theorem Channel.closed_closedAs (r : Channel) (set next : Settings) (w : Nat) :
    r.ClosedAs (r.closed set next w) set next := by
  have hr := Channel.judged_refs r set
  obtain ⟨h1, h2, h3, h4⟩ := hr
  cases hs : r.sampling with
  | none =>
    cases hk : r.kind with
    | none =>
      have hk' : (r.judged set).refs.head?.map (·.2) = none := by rw [h1]; exact hk
      have hu : r.closed set next w = { r.judged set with
          last := some ((r.judged set).entry w), health := .disabled, healthCount := 0, refsChanged := false } := by
        unfold Channel.closed Channel.startWindow Channel.kind
        simp only [h2, hs, hk']
        exact Channel.qualify_none _ (by simp [Channel.qualifyDue])
      rw [hu]
      constructor <;> simp_all
    | some k =>
      have hk' : (r.judged set).refs.head?.map (·.2) = some k := by rw [h1]; exact hk
      have hu : r.closed set next w =
          ({ r.judged set with last := some ((r.judged set).entry w) } : Channel).settle k := by
        unfold Channel.closed Channel.startWindow Channel.kind
        simp only [h2, hs, hk']
        refine Channel.qualify_none _ ?_
        simp [Channel.qualifyDue, Channel.settle, Channel.clearWindow]
      rw [hu]
      constructor <;> simp_all [Channel.settle, Channel.clearWindow]
  | some j =>
    cases hk : r.kind with
    | none =>
      have hk' : (r.judged set).refs.head?.map (·.2) = none := by rw [h1]; exact hk
      have hu : r.closed set next w =
          ({ r.judged set with last := some ((r.judged set).entry w) } : Channel).disable := by
        unfold Channel.closed Channel.startWindow Channel.kind
        simp only [h2, hs, hk']
        refine Channel.qualify_none _ ?_
        simp [Channel.qualifyDue, Channel.disable, Channel.clearWindow]
      rw [hu]
      constructor <;> simp_all [Channel.disable, Channel.clearWindow]
    | some k =>
      have hk' : (r.judged set).refs.head?.map (·.2) = some k := by rw [h1]; exact hk
      by_cases e : j = k
      · subst e
        have hj : r.judged set = (r.finalChecks (set.of j)).moveHealth set := by
          unfold Channel.judged; rw [Channel.silentCheck_eq hs]
        have hm := Channel.moveHealth_same (r.finalChecks (set.of j)) set
        have hu : r.closed set next w =
            (({ r.judged set with last := some ((r.judged set).entry w) } : Channel).carryOn next).qualify next := by
          unfold Channel.closed Channel.startWindow Channel.kind
          simp only [h2, hs, hk', if_true]
        rw [hu, hj, hm]
        clear hu hj hm h1 h2 h3 h4 hk'
        have hf : (r.finalChecks (set.of j)).sampling = some j := hs
        rw [Channel.carryOn_eq (j := j) (by exact hf)]
        unfold Channel.qualify Channel.qualifyDue
        by_cases d : r.qualified = false ∧ r.presence = true ∧ r.inProgress = false ∧ (next.of j).debounce ≤ r.contOn
        · rw [if_pos (by simp [Channel.clearWindow, Channel.finalChecks, hs, d])]
          constructor <;> simp_all [Channel.finalChecks, Channel.clearWindow, Channel.markQualified]
        · rw [if_neg (by
            simp only [Channel.clearWindow, Channel.finalChecks, hs]
            simpa [and_comm, and_left_comm, and_assoc] using d)]
          constructor <;> simp_all [Channel.finalChecks, Channel.clearWindow]
      · have hu : r.closed set next w =
            ({ r.judged set with last := some ((r.judged set).entry w) } : Channel).settle k := by
          unfold Channel.closed Channel.startWindow Channel.kind
          simp only [h2, hs, hk']
          rw [if_neg e]
          refine Channel.qualify_none _ ?_
          simp [Channel.qualifyDue, Channel.settle, Channel.clearWindow]
        rw [hu]
        constructor <;> simp_all [Channel.settle, Channel.clearWindow]
/-- What the start of a window sets: the settings come up to date, the number moves on and the elapsed time is 0 (R50, R60). -/
theorem State.startWindow_effect (s : State) :
    s.startWindow.settings = s.pendSettings.getD s.settings ∧ s.startWindow.winNum = (s.winNum + 1) % 65536 ∧
      s.startWindow.elapsed = 0 ∧ s.startWindow.pendSettings = none ∧
      (∀ x, s.startWindow.chan x = (s.chan x).startWindow (s.pendSettings.getD s.settings)) ∧
      s.startWindow.bulletin = s.bulletin ∧ s.startWindow.transit = s.transit ∧
      s.startWindow.lastClosed = s.lastClosed ∧ s.startWindow.slots = s.slots ∧ s.startWindow.stage = s.stage ∧
      s.startWindow.store = s.store ∧ s.startWindow.count = s.count ∧ SetsOnly s s.startWindow :=
  ⟨rfl, rfl, rfl, rfl, fun x => by simp [State.startWindow, State.chan], rfl, rfl, rfl, rfl, rfl, rfl, rfl,
    SetsOnly.of_links (fun l => by cases l <;> rfl)⟩

/-- A window close of W cs: its summary, its bulletin, the channel records it leaves, and the window that starts (R50, R58, R62). -/
theorem State.closeWindow_effect (s : State) (w : Nat) :
    ∃ (sum : Summary) (b : Bulletin), sum.number = s.winNum ∧ sum.w = w ∧ b.number = s.winNum ∧
      (∀ x, sum.entries.get x = (((s.chan x).complete s.settings).judged s.settings).entry w) ∧
      (∀ x, (s.closeWindow w).chan x =
        ((s.chan x).complete s.settings).closed s.settings (s.pendSettings.getD s.settings) w) ∧
      (s.closeWindow w).bulletin = some b ∧ (s.closeWindow w).transit = s.transit ++ [(sum, b)] ∧
      (s.closeWindow w).winNum = (s.winNum + 1) % 65536 ∧ (s.closeWindow w).elapsed = 0 ∧
      (s.closeWindow w).settings = s.pendSettings.getD s.settings ∧ (s.closeWindow w).pendSettings = none ∧
      (s.closeWindow w).lastClosed = some (s.winNum, w) ∧ (s.closeWindow w).slots = s.slots ∧
      (s.closeWindow w).stage = s.stage ∧ (s.closeWindow w).store = s.store ∧ (s.closeWindow w).count = s.count ∧
      SetsOnly s (s.closeWindow w) := by
  obtain ⟨f, fc⟩ := State.finishReadings_effect s
  have hc : s.closeWindow w = (s.finishReadings.publish w).startWindow.afterStart s.finishReadings.chans
    s.finishReadings.pendSettings.isSome := rfl
  rw [hc]
  obtain ⟨sum, b, p1, p2, p3, p4, p5, p6, p7, p8, p9, p10, p11, p12, p13, p14, p15, p16⟩ :=
    State.publish_effect s.finishReadings w
  generalize s.finishReadings.publish w = p at *
  obtain ⟨q1, q2, q3, q4, q5, q6, q7, q8, q9, q10, q11, q12, q13⟩ := State.startWindow_effect p
  generalize p.startWindow = q at *
  obtain ⟨k, kc⟩ := State.afterStart_effect q s.finishReadings.chans s.finishReadings.pendSettings.isSome
  have hs : p.pendSettings.getD p.settings = s.pendSettings.getD s.settings := by rw [p10, p9, f.pendSettings, f.settings]
  rw [hs] at q1 q5
  exact ⟨sum, b, p1.trans f.winNum, p2, p3.trans f.winNum, fun x => by rw [p4, fc, f.settings],
    fun x => by rw [kc x, q1, q5, p5, fc, f.settings]; rfl, k.bulletin.trans (q6.trans p6),
    k.transit.trans (q7.trans (p7.trans (by rw [f.transit]))), k.winNum.trans (q2.trans (by rw [p8, f.winNum])),
    k.elapsed.trans q3, k.settings.trans q1, k.pendSettings.trans q4,
    k.lastClosed.trans (q8.trans (p11.trans (by rw [f.winNum]))), k.slots.trans (q9.trans (p12.trans f.slots)),
    k.stage.trans (q10.trans (p13.trans f.stage)), k.store.trans (q11.trans (p14.trans f.store)),
    k.count.trans (q12.trans (p15.trans f.count)), ((f.sets.trans p16).trans q13).trans k.sets⟩

end Sys2Proof.Machine
end

