-- ==== Sys2Proof/Laws/Commands.lean ====
section
/-! SUPPORT. Small lemmas of the command path: events while RESET is not held, the form of a frame's state, the stage, the
pending-set edits of NOTICE CLEAR. -/

namespace Sys2Proof.Machine

theorem State.running_up {s : State} {f : State → State} (h : s.resetHeld = false) : s.running f = f s := by
  simp [State.running, h]

theorem State.running_held {s : State} {f : State → State} (h : s.resetHeld = true) : s.running f = s := by
  simp [State.running, h]

/-- A good frame changes the two links alone. -/
theorem State.goodFrame_form (s : State) (l : Link) :
    s.goodFrame l = { s with loc := (s.goodFrame l).loc, centre := (s.goodFrame l).centre } := by
  unfold State.goodFrame
  simp only []
  split <;> cases l <;> rfl

/-- A response changes the two links alone. -/
theorem State.respond_form (s : State) (l : Link) (code : Byte) (r : Reply) :
    s.respond l code r = { s with loc := (s.respond l code r).loc, centre := (s.respond l code r).centre } := by
  cases l <;> rfl

theorem byteBelow_some {n : Nat} {b : Byte} {j : Fin n} (h : b.toNat = j.val) : (byteBelow n b : Option (Fin n)) = some j := by
  have : b.toNat < n := by rw [h]; exact j.isLt
  simp only [byteBelow, this, dif_pos]
  exact congrArg some (Fin.ext h)

/-! ### The stage (R156, R157) -/

/-- A stage filled from an image is that image again. -/
theorem stageImage_fullStage (img : Table Byte 64) :
    stageImage (fullStage (Table.build 4 (sectionBytes img))) = some img := by
  have h : ∀ q : Fin 4, (⟨[sectionBytes img 0, sectionBytes img 1, sectionBytes img 2, sectionBytes img 3], rfl⟩ :
      Table (Table Byte 16) 4).get q = sectionBytes img q := by
    intro q
    match q with
    | 0 => rfl
    | 1 => rfl
    | 2 => rfl
    | 3 => rfl
  simp only [stageImage, fullStage, Table.get_map, Table.get_build, Option.some.injEq]
  apply Table.ext
  intro i
  simp only [joinSections, Table.get_build]
  rw [h]
  simp only [sectionBytes, Table.get_build]
  congr 1
  apply Fin.ext
  simp only []
  omega

/-! ### Pending-set edits (R153) -/

theorem State.modSet_onlyLinks (s : State) (l : Link) (f : List Notice → List Notice) : OnlyLinks s (s.modSet l f) :=
  State.setLink_onlyLinks _ _ _

theorem State.set_modSet (s : State) (l k : Link) (f : List Notice → List Notice) :
    ((s.modSet l f).link k).set = if k = l then f (s.link l).set else (s.link k).set := by
  unfold State.modSet
  by_cases e : k = l
  · subst e
    simp
  · rw [State.link_setLink_other _ _ e]
    simp [e]

theorem State.modSet_setsOnly (s : State) (l : Link) (f : List Notice → List Notice) : SetsOnly s (s.modSet l f) := by
  intro k
  unfold State.modSet
  by_cases e : k = l
  · subst e
    simp
  · rw [State.link_setLink_other _ _ e]

/-! ### The lapse of a link (R131) -/

theorem State.lapse_ramp (s : State) (l : Link) (n : RampNo) : (s.lapse l).ramp n = (s.ramp n).lapse l := by
  cases l <;> simp [State.lapse, State.ramp, State.setLink]

theorem State.lapse_zone (s : State) (l : Link) (z : ZoneNo) : (s.lapse l).zone z = (s.zone z).lapse l := by
  cases l <;> simp [State.lapse, State.zone, State.setLink]

theorem State.lapse_rest (s : State) (l : Link) : RestSame s (s.lapse l) := by cases l <;> constructor <;> rfl

theorem State.tryLapse_not {s : State} {l : Link} (h : (s.link l).lapseDue = false) : s.tryLapse l = s := by
  simp [State.tryLapse, h]

end Sys2Proof.Machine
end

