-- ==== Sys2Proof/Laws/Lookup.lean ====
section
/-! SUPPORT. The forms of a LOOKUP result in the words of the statements: what each form of R142 gives, and the image of a plan. -/

namespace Sys2Proof.Machine

/-- The records of a table, place by place. -/
theorem Table.cells_eq {α : Type} {n : Nat} (t : Table α n) : t.cells = (List.finRange n).map t.get := by
  apply List.ext_get
  · simp [t.size]
  · intro i h1 h2
    simp [Table.get]

theorem natBytes_one (v : Nat) : natBytes 1 v = [byteOf v] := rfl

theorem natBytes_two (v : Nat) : natBytes 2 v = twoBytes v := rfl

theorem natBytes_three (v : Nat) : natBytes 3 v = byteOf (v / 65536) :: twoBytes v := by
  simp [natBytes, byteOf, twoBytes, Nat.div_div_eq_div_mul]

theorem optField_one (o : Option Nat) : optField 1 o = [(o.map byteOf).getD 0xFF] := by cases o <;> rfl

theorem optField_two (o : Option Nat) : optField 2 o = (o.map twoBytes).getD [0xFF, 0xFF] := by cases o <;> rfl

theorem optPart_eq {α : Type} (f : α → List Byte) (o : Option α) : optPart f o = partBytes (o.map f) := by cases o <;> rfl

theorem listField_eq {α : Type} (f : α → List Byte) (l : List α) : listField f l = countedBytes (l.map f) := by
  simp [listField, countedBytes, byteOf, List.flatMap]

theorem one_eq : one = fun v => [byteOf v] := rfl

theorem two_eq : two = twoBytes := rfl

theorem Head.bytes_eq : Head.bytes = Head.form := by
  funext h
  simp [Head.bytes, Head.form, one_eq, two_eq, optPart_eq, listed, unlisted, firstOf]

theorem Settings.bytes_eq : Settings.bytes = Settings.form := by
  funext c
  have h := Table.cells_eq c.kinds
  rw [show List.finRange 5 = [0, 1, 2, 3, 4] from rfl] at h
  simp [Settings.bytes, Settings.form, one_eq, two_eq, h]

theorem chanByte_eq : chanByte = chanField := by
  funext c
  cases c <;> rfl

/-- The four sections side by side are the image (R148). -/
theorem Plan.image_cells (p : Plan) : p.image.cells =
    (p.sections.get 0).cells ++ (p.sections.get 1).cells ++ (p.sections.get 2).cells ++ (p.sections.get 3).cells := by
  rw [Table.cells_eq p.image, Table.cells_eq (p.sections.get 0), Table.cells_eq (p.sections.get 1),
    Table.cells_eq (p.sections.get 2), Table.cells_eq (p.sections.get 3)]
  simp only [Plan.image, joinSections]
  rfl

end Sys2Proof.Machine
end

