-- ==== Sys2Proof/Laws/Settle.lean ====
section
/-! SUPPORT. What settling guarantees of a plan and of an amendment (R5 to R11, R17). -/

namespace Sys2Proof.Machine

theorem clamp_range {x lo hi : Nat} (h : lo ≤ hi) : lo ≤ clamp x lo hi ∧ clamp x lo hi ≤ hi := by
  unfold clamp
  repeat' split
  all_goals omega

theorem clamp_eq {x lo hi : Nat} (h : lo ≤ hi) : clamp x lo hi = max lo (min hi x) := by
  unfold clamp
  repeat' split
  all_goals omega

/-- The channel that a channel field holds is its value, 0 to 63 (R148). -/
theorem readChan_iff (v : Nat) (c : Chan) : (readChan v).chan? = some c ↔ v = c.val := by
  unfold readChan
  split
  · simp [ChanField.chan?]; omega
  · split
    · simp [ChanField.chan?, Fin.ext_iff]
    · simp [ChanField.chan?]; omega

/-- A channel field is in its range at 0 to 63 and at 255 (R148). -/
theorem readChan_inRange (v : Nat) : readChan v ≠ .outOfRange ↔ v < 64 ∨ v = 255 := by
  unfold readChan
  repeat' split
  all_goals simp_all

theorem settleControl_minRate (c : Control) (eff : Nat) : (settleControl c eff).minRate ≤ eff := Nat.min_le_right _ _

/-- The start and fallback rates lie between the settled minimum rate and the effective max rate (R9). -/
theorem settleControl_rates (c : Control) (eff : Nat) :
    (settleControl c eff).minRate ≤ (settleControl c eff).startRate ∧ (settleControl c eff).startRate ≤ eff ∧
      (settleControl c eff).minRate ≤ (settleControl c eff).fallback ∧ (settleControl c eff).fallback ≤ eff :=
  have h := settleControl_minRate c eff
  ⟨(clamp_range h).1, (clamp_range h).2, (clamp_range h).1, (clamp_range h).2⟩

/-- A CONTROL section settled by R9 under its own effective max rate. -/
theorem settleControl_settled (w : Control) (lanes v green minRed : Nat) :
    ControlSettled w lanes v green minRed (settleControl w (controlEffMax w lanes v green minRed))
      (controlEffMax w lanes v green minRed) := by
  have h : ∀ x y : Nat, min x y ≤ y := fun x y => Nat.min_le_right _ _
  constructor <;>
    simp only [settleControl, controlEffMax, effectiveMax, clamp_eq (h _ _), clamp_eq (show 50 ≤ 500 by omega),
      clamp_eq (show 60 ≤ 3600 by omega), clamp_eq (show 60 ≤ 5400 by omega), clamp_eq (Nat.zero_le _)] <;> omega

theorem structureOk_lanes {m : Nat} {n : RampNo} {img : Table Byte m} (h : structureOk n img = true) :
    1 ≤ byteAt img 1 ∧ byteAt img 1 ≤ 3 := by
  simp only [structureOk, Bool.and_eq_true, decide_eq_true_eq] at h
  exact ⟨h.1.1.1.2, h.1.1.2⟩

/-- A plan that passes the structural checks is settled into its ranges. -/
theorem settlePlan_inRange {m : Nat} {n : RampNo} {img : Table Byte m} (h : structureOk n img = true) :
    (settlePlan n img).plan.InRange (settlePlan n img).effMax where
  lanes := structureOk_lanes h
  flushHold := clamp_range (by decide)
  target := Nat.min_le_right _ _
  rates := settleControl_minRate _ _

theorem settleAmendment_inRange (p : Plan) (raw : Control) (target : Nat) :
    (settleAmendment p raw target).control.minRate ≤ (settleAmendment p raw target).effMax ∧
      (settleAmendment p raw target).queueTarget ≤ p.queue.storage :=
  ⟨settleControl_minRate _ _, Nat.min_le_right _ _⟩

/-- An amendment settled against a plan keeps the plan's ranges. -/
theorem Plan.InRange.amended {p : Plan} {eff : Nat} (h : p.InRange eff) {a : Amendment}
    (r : a.control.minRate ≤ a.effMax) (q : a.queueTarget ≤ p.queue.storage) : (p.amended a).InRange a.effMax :=
  ⟨h.lanes, h.flushHold, q, r⟩

/-- Installing an amendment keeps the shape of a record. -/
theorem Ramp.Shaped.installAmendment {r : Ramp} (h : r.Shaped) : r.installAmendment.Shaped := by
  unfold Ramp.installAmendment
  split
  · next a p ha hp =>
    have hs : r.state = .metering ∨ r.state = .flushing := h.pending (by simp [ha])
    have hv : r.state ≠ .vacant := by rcases hs with e | e <;> simp [e]
    refine ⟨fun e => absurd e hv, fun _ => ⟨rfl, rfl⟩, h.opening, h.closing, ?_, ?_, ?_, ?_⟩
    · intro u e
      obtain rfl : p.amended a = u := by simpa using e
      exact (h.settled p hp).amended (h.amended a p ha hp).1 (h.amended a p ha hp).2
    · intro b _ e
      cases e
    · intro e
      exact absurd rfl e
    · intro e
      refine h.present ?_
      have : r.queueEndChan = ({ r with plan := some (p.amended a) } : Ramp).queueEndChan := by
        simp [Ramp.queueEndChan, hp, Plan.amended]
      unfold Ramp.effPresence at e ⊢
      rw [this]
      exact e
  · next a ha hp =>
    have hs : r.state = .metering ∨ r.state = .flushing := h.pending (by simp [ha])
    have := (h.planned (by rcases hs with e | e <;> simp [e])).1
    rw [hp] at this
    cases this
  · exact h

end Sys2Proof.Machine
end

