-- ==== Sys2Proof/Laws/Time.lean ====
section
/-! SUPPORT. Which events are due: membership in the list of due events, part by part (R1, log 1). -/

namespace Sys2Proof.Machine

@[simp] theorem mem_dueIf {b : Bool} {i j : Instr} : i ∈ dueIf b j ↔ b = true ∧ i = j := by
  unfold dueIf
  cases b <;> simp

theorem State.mem_chanDue {s : State} {c : Chan} {i : Instr} : i ∈ s.chanDue c ↔
    (s.chan c).qualifyDue s.settings = true ∧ i = .presenceQualified c ∨
      (s.chan c).stuckDue s.settings = true ∧ i = .stuckOn c := by
  simp [State.chanDue]

theorem State.mem_laneDue {s : State} {n : RampNo} {k : LaneNo} {i : Instr} : i ∈ s.laneDue n k ↔
    s.laneReadyDue n k = true ∧ i = .laneReady n k ∨ s.spacingDue n k = true ∧ i = .spacingExpiry n k ∨
      s.greenEndDue n k = true ∧ i = .greenEnd n k := by
  simp [State.laneDue]

theorem State.mem_linkDue {s : State} {l : Link} {i : Instr} : i ∈ s.linkDue l ↔
    (s.link l).lapseDue = true ∧ i = .supervisionLapse l ∨
      ((s.link l).rx ≠ .absent ∧ 3 ≤ (s.link l).gap) ∧ i = .receiveGapTimeout l := by
  simp [State.linkDue]

theorem State.mem_rampDue {s : State} {n : RampNo} {i : Instr} : i ∈ s.rampDue n ↔
    (s.ramp n).warnDue = true ∧ i = .warnTimerExpiry n ∨ (s.ramp n).startRedDue = true ∧ i = .startRedExpiry n ∨
      (s.ramp n).dwellDue = true ∧ i = .queueAlarm n ∨ (s.ramp n).flushExitMet = true ∧ i = .flushHoldReached n ∨
      (∃ k, i ∈ s.laneDue n k) ∨ s.settledDue n = true ∧ i = .settleComplete n ∨
      (s.ramp n).closeGreenDue = true ∧ i = .closeGreenEnd n ∨ s.judgementDue n = true ∧ i = .emptyJudgement n ∨
      (s.ramp n).overrideDone = true ∧ i = .overrideExpiry n := by
  simp only [State.rampDue, List.mem_append, mem_dueIf, List.mem_flatMap, List.mem_finRange, true_and, or_assoc]

theorem State.mem_due {s : State} {i : Instr} : i ∈ s.due ↔
    s.windowTimerDue = true ∧ i = .windowTimerExpiry ∨ s.selfCloseDue = true ∧ i = .windowSelfClose ∨
      (∃ c, i ∈ s.chanDue c) ∨ (∃ n, i ∈ s.rampDue n) ∨
      (∃ h, (s.faultDue h).isSome = true ∧ i = .provingFaultDeclared h) ∨ i ∈ s.linkDue .loc ∨ i ∈ s.linkDue .centre := by
  simp only [State.due, List.mem_append, mem_dueIf, List.mem_flatMap, List.mem_finRange, true_and, or_assoc]

end Sys2Proof.Machine
end

