-- ==== Sys2Proof/Tests/Slice0.lean ====
section
/-! SUPPORT. Tests: the terms that WellFormed refuses, frames written out from the manual's formats, the manual's worked
examples, and for each obligation states and operands that meet its hypotheses. -/

namespace Sys2Proof.Tests

open Sys2Proof Sys2Proof.Machine

-- One theorem at a time: run together, the kernel's evaluations hold a thread and its stack each.
set_option Elab.async false

/-! ### WellFormed refuses the ill-formed -/

theorem test_take_of_all_is_another_row : WellFormed (.takeAuthority .loc 0xFF) = false ∧
    WellFormed (.takeAuthority .loc 0xFE) = true := by decide
theorem test_yield_of_all_is_another_row : WellFormed (.yieldAuthority .centre 0xFF) = false := by decide
theorem test_clear_of_all_is_another_row : WellFormed (.noticeClear .loc 0xFF 0) = false := by decide
theorem test_define_too_long : WellFormed (.zoneDefine .loc ⟨0, List.replicate 242 0, 0, 0, 0, []⟩) = false ∧
    WellFormed (.zoneDefine .loc ⟨0, List.replicate 241 0, 0, 0, 0, []⟩) = true := by decide +kernel
theorem test_amend_too_long : WellFormed (.zoneAmend .loc ⟨0, 0, 0, 0, List.replicate 121 (0, 0), []⟩) = false ∧
    WellFormed (.zoneAmend .loc ⟨0, 0, 0, 0, List.replicate 120 (0, 0), []⟩) = true := by decide +kernel
theorem test_mask_too_long : WellFormed (.noticeMask .loc (List.replicate 249 0)) = false ∧
    WellFormed (.noticeMask .loc (List.replicate 248 0)) = true := by decide +kernel

/-! ### Frames (R135 to R137, the catalogue) -/

/-- The check of the nine digits "123456789" under this generator and initial value is 0x29B1. -/
theorem test_check_of_nine_digits :
    crc16 [0x31, 0x32, 0x33, 0x34, 0x35, 0x36, 0x37, 0x38, 0x39] = 0x29B1 := by decide +kernel

theorem test_open_payload : decodePayload .loc [0x15, 5] = .command (.openRamp .loc 5) := by decide
theorem test_override_payload : decodePayload .centre [0x18, 5, 0x01, 0x2C, 0x03, 0x84] =
    .command (.overrideRate .centre 5 300 900) := by decide
theorem test_lookup_payload : decodePayload .loc [0x10, 5, 2] = .command (.lookupZone .loc 2) ∧
    decodePayload .loc [0x10, 11, 0] = .badGroup := by decide
theorem test_zone_define_payload :
    decodePayload .loc [0x20, 2, 1, 20, 0x00, 0xC8, 80, 0x03, 0x84, 2, 3, 4, 5, 6] =
      .command (.zoneDefine .loc ⟨2, [20], 200, 80, 900, [(3, 4), (5, 6)]⟩) := by decide +kernel
theorem test_corridor_payload : decodePayload .loc ([0x30, 1, 20] ++ (List.replicate 5 [4, 0, 60, 30, 20]).flatten ++
    [3, 10, 30, 0, 0, 0, 90]) =
      .command (.corridorSet .loc ⟨1, 20, Table.fill 5 ⟨4, 60, 30, 20⟩, 3, 10, 30, 0, 90⟩) := by decide +kernel
theorem test_ill_shaped_payloads : decodePayload .loc [0x15] = .badShape ∧ decodePayload .loc [0x15, 1, 2] = .badShape ∧
    decodePayload .loc [0x99, 1] = .badShape ∧ decodePayload .loc [0x52, 2, 1] = .badShape := by decide

/-! ### The manual's worked examples -/

/-- The staged plan of ramp 9 as written (01, commissioning and replacing a plan). -/
def img9 : Table Byte 64 :=
  ⟨[9, 2, 1, 3, 30, 31, 0xFF, 0xFF, 32, 33, 34, 35, 36, 0xFF, 37, 0xFF] ++
    [25, 35, 0, 45, 0, 20, 1, 144, 0, 0, 0, 0, 0, 0, 0, 0] ++
    [2, 88, 112, 1, 44, 7, 8, 5, 220, 0, 0, 0, 0, 0, 0, 0] ++
    [255, 40, 0, 20, 0, 50, 0, 0, 0, 0, 0, 0, 0, 0, 0, 0], rfl⟩

def set9 : Settled := settlePlan 9 img9
def p9 : Plan := set9.plan

theorem test_ramp9_settles : set9.effMax = 1200 ∧ p9.timing = ⟨25, 35, 45, 35, 300⟩ ∧
    p9.control = ⟨500, 112, 300, 1800, 1200, 300⟩ ∧ p9.queue = ⟨250, 40, 1, 20, 50⟩ ∧
    set9.marks = [.startRed, .closeGreen, .targetOcc, .startRate, .fallback, .storage, .dwell] ∧
    p9.intervals 1200 = [60, 60] := by decide +kernel

theorem test_ramp9_claims : structureOk 9 img9 = true ∧ p9.layout.claims =
    [(30, .mainline), (31, .mainline), (32, .entry), (33, .queueEnd), (34, .demand), (36, .demand), (35, .passage)] := by
  decide +kernel

theorem test_ramp9_amendment :
    (settleAmendment p9 ⟨180, 112, 300, 800, 800, 600⟩ 30).effMax = 800 ∧
    (settleAmendment p9 ⟨180, 112, 300, 800, 800, 600⟩ 30).marks = [] := by decide +kernel

/-- Ramp 5's plan in 04, on ramp 9's channels. -/
def p5 : Plan :=
  { p9 with timing := ⟨20, 20, 10, 40, 0⟩, control := ⟨180, 112, 240, 1500, 900, 600⟩, queue := ⟨60, 10, 20, 15, 50⟩ }

/-- A summary of window `w` cs with the two mainline entries and the entry channel's. -/
def summary (a b entry : SummaryEntry) : Summary :=
  ⟨1530, 2000, (((Table.fill 64 ⟨0, 0, .disabled, .empty⟩).set 30 a).set 31 b).set 32 entry⟩

def valid (occupancy count : Nat) : SummaryEntry := ⟨occupancy, count, .valid, .empty⟩
def faulty : SummaryEntry := ⟨0, 0, .faulty, ⟨true, false, false⟩⟩

def zone2 (share : Nat) : Bulletin := ⟨1530, [⟨2, .restricting, 415, [(5, share)]⟩]⟩

def metering5 (rate q : Nat) (o : Option Nat) : Ramp :=
  { Ramp.vacantRecord with
    state := .metering, plan := some p5, effMax := some 1500, applied := rate, q := q
    override := o.map fun v => ⟨v, none, .centre, 0⟩ }

theorem test_update_1530 : (metering5 900 9 none).update p5 5 (summary (valid 236 0) (valid 221 0) (valid 0 4)) (zone2 207) =
    (513, .zone 2) ∧ p5.interval 513 = 141 := by decide +kernel

theorem test_update_overrides :
    (metering5 900 9 (some 300)).update p5 5 (summary (valid 236 0) (valid 221 0) (valid 0 4)) ⟨1550, []⟩ = (300, .override) ∧
    (metering5 900 12 (some 300)).update p5 5 (summary (valid 236 0) (valid 221 0) (valid 0 4)) ⟨1550, []⟩ = (1080, .queue) ∧
    (metering5 900 30 (some 300)).update p5 5 (summary (valid 236 0) (valid 221 0) (valid 0 4)) ⟨1550, []⟩ = (1500, .maximum) ∧
    (metering5 900 9 (some 2000)).update p5 5 (summary (valid 236 0) (valid 221 0) (valid 0 4)) ⟨1550, []⟩ =
      (1500, .override) := by decide +kernel

theorem test_update_degraded :
    (metering5 513 9 none).update p5 5 (summary faulty faulty faulty) (zone2 190) = (323, .zone 2) ∧
    (metering5 323 9 none).update p5 5 (summary faulty faulty faulty) (zone2 175) = (240, .minimum) ∧
    (metering5 240 9 none).update p5 5 (summary faulty (valid 150 0) faulty) (zone2 0) = (240, .zone 2) ∧
    p5.interval 323 = 223 ∧ p5.interval 240 = 300 := by decide +kernel

theorem test_zone2_shares : shareOut 415 [(3, 4), (5, 6), (7, 2)] = [(3, 139), (5, 207), (7, 69)] ∧
    shareOut 300 [(12, 5), (13, 5), (14, 3)] = [(12, 116), (13, 115), (14, 69)] := by decide +kernel

/-- Zone 2 of 05 with ramps 3, 5 and 7 METERING, on the channels of `summary`. -/
def zoneRecord2 : Zone :=
  ⟨.restricting, some .centre, [30, 31, 32], 200, 80, 900, [(3, 4), (5, 6), (7, 2)], 150, false, none, none, none⟩

theorem test_zone2_evaluates :
    (zoneRecord2.evaluate (summary (valid 251 0) (valid 262 0) (valid 247 0)) fun _ => metering5 900 9 none) =
      ⟨{ zoneRecord2 with r := 415, oz := some 253, lastEval := some 1530 }, [(3, 139), (5, 207), (7, 69)]⟩ := by
  decide +kernel

/-- The table of R118. -/
theorem test_mismatch_classes : mismatchClass .red true false = none ∧ mismatchClass .red false false = some .redOut ∧
    mismatchClass .red false true = some .greenConflict ∧ mismatchClass .green false true = none ∧
    mismatchClass .green true false = some .greenOut ∧ mismatchClass .dark false false = none ∧
    mismatchClass .dark true false = some .strayRed ∧ mismatchClass .dark false true = some .greenConflict := by decide

/-! ### States and operands that meet the hypotheses of the obligations -/

/-- After reset with PERMIT asserted. -/
def up : State := { State.reset with permit := true, scan := .idle }
/-- The RESET line held. -/
def held : State := { State.reset with resetHeld := true }
/-- Ramp 9 with a record. -/
def on (r : Ramp) : State := up.setRamp 9 r
/-- Ramp 9's record with its plan installed, in a state. -/
def rec9 (st : RampState) (sub : Option SubPhase) : Ramp := { Ramp.installed set9 .command with state := st, sub := sub }
/-- A head of ramp 9 replaced. -/
def lane (s : State) (k : LaneNo) (h : Head) : State := s.setHead (headOf 9 k) h
/-- A head in a cycle state with its times since the last green start and end. -/
def cyc (c : CycleState) (start fin : Nat) : Head := { Head.resetContext with cycle := c, sinceStart := start, sinceEnd := fin }

/-- Ramp 9 with a record and two of its heads. -/
def heads2 (st : RampState) (sub : Option SubPhase) (a b : Head) : State := lane (lane (on (rec9 st sub)) 0 a) 1 b

/-- Whether a step's next state meets a condition. -/
def reaches (o : Host.Outcome State Fault Refusal) (p : State → Bool) : Bool :=
  match o with
  | .next t => p t
  | .fault _ => false
  | .refused _ => false

theorem takes_on (r : Ramp) (l : Link) : (on r).takes l := And.intro rfl (by cases l <;> rfl)
theorem takes_lane (r : Ramp) (k : LaneNo) (h : Head) (l : Link) : (lane (on r) k h).takes l :=
  And.intro rfl (by cases l <;> rfl)
theorem takes_up (l : Link) : up.takes l := And.intro rfl (by cases l <;> rfl)

theorem witness_StepTakesFront : ({ up with pending := [.syncEdge, .permitLoss] } : State).pending =
    .syncEdge :: [.permitLoss] := rfl

theorem witness_IdleStep : (held.pending = [] ∧ held.resetHeld = true) ∧ (up.resetHeld = false ∧ up.due = []) ∧
    ({ up with elapsed := 2000 } : State).due = [.windowTimerExpiry] ∧
    ({ up with elapsed := 2000, centre := { up.centre with supervised := true, supTimer := 90 } } : State).due =
      .windowTimerExpiry :: .supervisionLapse .centre :: [] := by decide +kernel

theorem witness_CentisecondCount : (up.setLink .centre { up.centre with supervised := true }).centre.supervised = true ∧
    held.resetHeld = true ∧ held.pending = [] ∧ up.resetHeld = false ∧
    ({ up with loc := { up.loc with linkState := .replying }, restartPending := true } : State).loc.linkState =
      .replying := by decide

theorem witness_CentisecondCount_held : step { held with pending := [.permitReturn] } =
    .next { held with permit := true } ∧ ({ held with permit := true } : State).resetHeld = true := ⟨rfl, rfl⟩

/-- The counts at which a centisecond, a decisecond and a second are counted, and presence effective by a SUSPECT channel alone. -/
theorem witness_CentisecondCount_ticks :
    let s (n : Nat) : State := { heads2 .opening (some .warn) (cyc .hold 7 9) { cyc .dark 6000 6000 with standing := true } with
      count := n, loc := { up.loc with supervised := true, set := [⟨.lamp, 28, false, true, .none⟩] } }
    ((s 8).tick.head 27 = { cyc .hold 7 9 with mismatch := 1 } ∧ (s 9).tick.head 27 = { cyc .hold 8 10 with mismatch := 1 }) ∧
    ((s 98).tick.loc.supTimer = 0 ∧ (s 99).tick.loc.supTimer = 1) ∧
    (((s 89).tick.ramp 9).subTimer = 0 ∧ ((s 99).tick.ramp 9).subTimer = 1) ∧
    (((s 0).tick.head 28).standing = false ∧ (s 0).tick.loc.set = [⟨.lamp, 28, false, false, .none⟩]) ∧
    (((s 0).tick.ramp 9).contOff = 1 ∧ ((on { rec9 .parked none with contOff := 12000 }).tick.ramp 9).contOff = 12000) ∧
    ({ rec9 .parked none with held := [(33, .suspect)], qeOn := true } : Ramp).effPresence = true ∧
    ({ rec9 .parked none with held := [(33, .failed)], qeOn := true } : Ramp).effPresence = false := by decide +kernel

theorem witness_QueueUntouched : exec .takeoverAssert up = .next { up with takeover := true } := rfl

theorem witness_PayloadRoundTrip : WellFormed (.openRamp .loc 5) = true ∧
    encodePayload (.openRamp .loc 5) = some [0x15, 5] ∧
    (WellFormed (.noticeMask .loc (List.replicate 248 1)) = true ∧
      (encodePayload (.noticeMask .loc (List.replicate 248 1))).map List.length = some 250) := by decide +kernel

theorem witness_FrameRunsCommand : WellFormed (.openRamp .centre 9) = true ∧
    encodePayload (.openRamp .centre 9) = some [0x15, 9] ∧ up.resetHeld = false ∧
    (up.link .centre).linkState = .idle ∧ (up.link .centre).rx = .absent := by decide

/-- The state reached after some bytes, and whether it is a given one. -/
def bytesReach (s : State) (l : Link) (bytes : List Byte) (o : Host.Outcome State Fault Refusal) : Bool :=
  match bytes.foldl (fun o b => match o with
    | .next t => exec (.byteReceived l b) t
    | .fault f => .fault f
    | .refused r => .refused r) (Host.Outcome.next s), o with
  | .next t, .next u => decide (t = u)
  | _, _ => false

theorem test_frame_of_open_runs_open : bytesReach (on (rec9 .parked none)) .centre (frameOf [0x15, 9])
    (exec (.openRamp .centre 9) (on (rec9 .parked none))) = true := by decide +kernel

/-- Ramp 9 METERING with lane 1 GREEN and a command waiting. -/
def meteringGreen : State :=
  { lane (on (rec9 .metering none)) 0 (cyc .green 3 6000) with pending := [.takeoverAssert] }

theorem test_meteringGreen_guarded : meteringGreen.Guarded :=
  ⟨by decide +kernel, by decide +kernel, by decide +kernel, by decide +kernel⟩

theorem witness_GreenLawKept : meteringGreen.Guarded ∧ (∃ h, (meteringGreen.head h).aspect = .green) ∧
    step meteringGreen = .next { meteringGreen with pending := [], takeover := true } :=
  ⟨test_meteringGreen_guarded, ⟨27, by decide +kernel⟩, rfl⟩

theorem witness_SetsOrderedKept : State.reset.setsOrdered ∧ State.reset.loc.set ≠ [] ∧
    step { State.reset with pending := [.takeoverAssert] } = .next { State.reset with takeover := true } :=
  ⟨⟨⟨by decide, by simp, trivial⟩, ⟨by decide, by simp, trivial⟩⟩, by decide, rfl⟩

/-- The record of PERMIT raised once and again, and its live flag cleared. -/
theorem witness_SetsOrderedKept_latched :
    raiseInto .permit 0 .none true [] = [⟨.permit, 0, false, true, .none⟩] ∧
    raiseInto .permit 0 .none false [⟨.permit, 0, false, true, .none⟩] = [⟨.permit, 0, true, false, .none⟩] ∧
    raiseInto .permit 0 .none true [⟨.flush, 2, false, true, .none⟩] =
      [⟨.permit, 0, false, true, .none⟩, ⟨.flush, 2, false, true, .none⟩] ∧
    liveClearIn .flush 2 [⟨.flush, 2, true, true, .none⟩] = [⟨.flush, 2, true, false, .none⟩] := by decide

theorem test_rec9_shaped {st : RampState} {sub : Option SubPhase} (v : st ≠ .vacant)
    (o : st = .opening ↔ sub = some .warn ∨ sub = some .startRed)
    (c : st = .closing ↔ sub = some .settle ∨ sub = some .green) : (rec9 st sub).Shaped where
  vacant e := absurd e v
  planned _ := ⟨rfl, rfl⟩
  opening := o
  closing := c
  settled p e := by
    obtain rfl : set9.plan = p := by simpa [rec9, Ramp.installed] using e
    exact settlePlan_inRange (by decide +kernel)
  amended _ _ e := by cases e
  pending e := absurd rfl e
  present _ := rfl

theorem test_vacant_shaped : Ramp.vacantRecord.Shaped where
  vacant _ := rfl
  planned e := absurd rfl e
  opening := by decide
  closing := by decide
  settled _ e := by cases e
  amended _ _ e := by cases e
  pending e := absurd rfl e
  present _ := rfl

/-- Ramp 9 METERING among VACANT ramps, with a command waiting. -/
def oneMetering : State := { on (rec9 .metering none) with pending := [.takeoverAssert] }

theorem witness_ShapedKept : oneMetering.Shaped ∧
    step oneMetering = .next { oneMetering with pending := [], takeover := true } := by
  refine ⟨⟨fun n => ?_, fun z m h => ?_, fun z m h => ?_⟩, rfl⟩
  · by_cases e : n = 9
    · subst e
      have : oneMetering.ramp 9 = rec9 .metering none := by simp [oneMetering, on, State.ramp, State.setRamp]
      rw [this]
      exact test_rec9_shaped (by decide) (by decide) (by decide)
    · have : oneMetering.ramp n = Ramp.vacantRecord := by
        simp [oneMetering, on, State.ramp, State.setRamp, Table.get_set_other _ _ e, up, State.reset]
      rw [this]
      exact test_vacant_shaped
  · have : (oneMetering.zone z).members = [] := by
      simp [oneMetering, on, State.zone, State.setRamp, up, State.reset, Zone.vacantRecord]
    rw [this] at h
    cases h
  · have : (oneMetering.zone z).additions = [] := by
      simp [oneMetering, on, State.zone, State.setRamp, up, State.reset, Zone.vacantRecord, Zone.additions]
    rw [this] at h
    cases h

/-! ### Resets -/

theorem witness_resets : up.resetHeld = false ∧ (held.resetHeld = true ∧ held.permit = false) ∧
    ({ held with permit := true } : State).permit = true := by decide

theorem witness_ResetReleased : held.Guarded ∧ ({ held with permit := true } : State).Guarded :=
  ⟨⟨by decide +kernel, by decide +kernel, by decide +kernel, by decide +kernel⟩,
    ⟨by decide +kernel, by decide +kernel, by decide +kernel, by decide +kernel⟩⟩

/-- The local link REPLYING to a RESTART, and the same with a store in flight. -/
def answeredRestart : State := { up with loc := { up.loc with linkState := .replying }, restartPending := true }
def storing : Option StoreBusy := some ⟨.store, 0, img9⟩

theorem witness_ResponseSentTaken : answeredRestart.resetHeld = false ∧ (answeredRestart.link .loc).linkState = .replying ∧
    (¬ (Link.loc = .loc ∧ ({ answeredRestart with restartPending := false } : State).restartPending = true) ∧
      ({ answeredRestart with restartPending := false } : State).loc.linkState = .replying) ∧
    answeredRestart.restartPending = true ∧ answeredRestart.store = none ∧
    ({ answeredRestart with store := storing } : State).store ≠ none := by decide

/-! ### Ramp commands -/

/-- The stage filled with ramp 9's plan. -/
def staged (s : State) : State := { s with stage := fullStage (Table.build 4 (sectionBytes img9)) }
/-- Slot 23 with a record. -/
def slotted (sl : Slot) : State := up.setSlot 23 sl

theorem staged_source (s : State) : (staged s).planSource 0 0 = (staged s, .ok img9) := by
  simp [State.planSource, staged, stageImage_fullStage]

theorem slotted_source : (slotted ⟨img9, true, .valid, false⟩).planSource 1 23 =
    (slotted ⟨img9, true, .valid, false⟩, .ok img9) := by
  have h : slotArg 23 = some 23 := by decide
  have i : (slotted ⟨img9, true, .valid, false⟩).slotInFlight 23 = false := by decide +kernel
  have e : (slotted ⟨img9, true, .valid, false⟩).slot 23 = ⟨img9, true, .valid, false⟩ := by
    simp [slotted, State.slot, State.setSlot]
  unfold State.planSource
  rw [if_neg (by decide), if_pos rfl, h]
  simp only []
  rw [i]
  simp [State.readSlot, e]

theorem takes_staged (r : Ramp) (l : Link) : (staged (on r)).takes l := And.intro rfl (by cases l <;> rfl)

theorem witness_CommissionInstalls : (staged up).takes .loc ∧ rampArg 9 = some 9 ∧ ((staged up).ramp 9).state = .vacant ∧
    (staged up).planSource 0 0 = (staged up, .ok img9) ∧ structureOk 9 img9 = true ∧
    (staged up).conflicts 9 (settlePlan 9 img9).plan.layout.claims = false :=
  ⟨And.intro rfl rfl, by decide, by decide +kernel, staged_source up, by decide +kernel, by decide +kernel⟩

theorem witness_CommissionInstalls_slot : (slotted ⟨img9, true, .valid, false⟩).takes .centre ∧
    ((slotted ⟨img9, true, .valid, false⟩).ramp 9).state = .vacant ∧
    (slotted ⟨img9, true, .valid, false⟩).planSource 1 23 = (slotted ⟨img9, true, .valid, false⟩, .ok img9) ∧
    (slotted ⟨img9, true, .valid, false⟩).conflicts 9 (settlePlan 9 img9).plan.layout.claims = false :=
  ⟨And.intro rfl rfl, by decide +kernel, slotted_source, by decide +kernel⟩

theorem test_img9_structured : Structured 9 img9 :=
  ⟨by decide +kernel, by decide +kernel, ⟨4, by decide, by decide +kernel⟩, by decide +kernel, by decide +kernel⟩

/-- The image without a mainline channel, with another queue-end channel, and with three lanes of which the third has no channel. -/
def noMainline : Table Byte 64 := (img9.set 4 0xFF).set 5 0xFF
def endAt (c : Byte) : Table Byte 64 := img9.set 9 c
def threeLanes : Table Byte 64 := ((img9.set 1 3).set 14 0xFF).set 15 0xFF

/-- What R5 asks at its bounds, and each settled range of R9 and R10 at an end: an effective max rate that the timing gives, a start
rate raised to the minimum rate, a minimum rate brought down to the effective max rate. -/
theorem witness_CommissionInstalls_settled : structureOk 9 noMainline = false ∧ structureOk 9 (endAt 64) = false ∧
    structureOk 9 (endAt 63) = true ∧ structureOk 9 threeLanes = true ∧ structureOk 8 img9 = false ∧
    structureOk 9 (img9.set 1 0) = false ∧ set9.effMax = 36000 * 2 * 1 / (25 + 35) ∧
    (settlePlan 9 ((img9.set 37 0).set 38 60)).effMax = 60 ∧
    (settlePlan 9 ((img9.set 37 0).set 38 60)).plan.control.minRate = 60 ∧
    (settlePlan 9 ((img9.set 39 0).set 40 0)).plan.control.startRate = 300 := by decide +kernel

/-- Each case of R7, and the two that it lets pass: another ramp's MAINLINE claim, and the ramp's own. -/
theorem witness_CommissionInstalls_conflicts :
    let s (who : Referencer) (k : Kind) : State := up.modChan 32 fun c => c.claim who k
    up.conflicts 9 [(32, .entry), (32, .mainline)] = true ∧ (s (.zone 2) .mainline).conflicts 9 [(32, .entry)] = true ∧
    (s (.ramp 8) .entry).conflicts 9 [(32, .entry)] = true ∧ (s (.ramp 8) .mainline).conflicts 9 [(32, .mainline)] = false ∧
    (s (.ramp 9) .demand).conflicts 9 [(32, .entry)] = false := by decide +kernel

/-- Channel 32, ramp 9's entry channel, is another ramp's. -/
def claimed : State := (staged up).modChan 32 fun c => c.claim (.ramp 8) .entry
/-- The image with four lanes. -/
def badImg : Table Byte 64 := img9.set 1 4

theorem witness_CommissionRefused : up.takes .loc ∧ rampArg 16 = none ∧ rampArg 15 = some 15 ∧
    ((on (rec9 .parked none)).ramp 9).state ≠ .vacant ∧
    ((up.ramp 9).state = .vacant ∧ stageImage up.stage = none) ∧
    ((1 : Byte) = 1 ∧ slotArg 24 = none ∧ (2 : Byte) ≠ 0 ∧ (2 : Byte) ≠ 1) ∧
    (slotArg 23 = some 23 ∧ ({ up with store := some ⟨.erase, 23, img9⟩ } : State).slotInFlight 23 = true) ∧
    (up.slotInFlight 23 = false ∧ (up.slot 23).state = .empty) ∧
    ((slotted ⟨img9, false, .damaged, false⟩).slotInFlight 23 = false ∧
      ((slotted ⟨img9, false, .damaged, false⟩).slot 23).state = .damaged) ∧
    (((slotted ⟨img9, false, .valid, false⟩).slot 23).state = .valid ∧
      ((slotted ⟨img9, false, .valid, false⟩).slot 23).agrees = false) ∧
    structureOk 9 badImg = false ∧
    (structureOk 9 img9 = true ∧ claimed.conflicts 9 (settlePlan 9 img9).plan.layout.claims = true) :=
  ⟨takes_up _, by decide +kernel⟩

theorem witness_CommissionRefused_sources :
    ({ up with stage := fullStage (Table.build 4 (sectionBytes badImg)) } : State).planSource 0 0 =
      ({ up with stage := fullStage (Table.build 4 (sectionBytes badImg)) }, .ok badImg) ∧
    claimed.planSource 0 0 = (claimed, .ok img9) := by
  constructor <;> simp [State.planSource, claimed, staged, State.modChan, State.setChan, stageImage_fullStage]

theorem witness_ReplacePlanSwaps : (staged (on (rec9 .parked none))).takes .loc ∧ rampArg 9 = some 9 ∧
    ((staged (on (rec9 .parked none))).ramp 9).state = .parked ∧
    ((staged (on (rec9 .parked none))).ramp 9).plan = some p9 ∧
    ((staged (on (rec9 .parked none))).ramp 9).allows .loc = true ∧
    (staged (on (rec9 .parked none))).planSource 0 0 = (staged (on (rec9 .parked none)), .ok img9) ∧
    structureOk 9 img9 = true ∧
    (staged (on (rec9 .parked none))).conflicts 9 (settlePlan 9 img9).plan.layout.claims = false ∧
    p9.layout.queueEnd = (settlePlan 9 img9).plan.layout.queueEnd :=
  ⟨takes_staged _ _, by decide, by decide +kernel, by decide +kernel, by decide +kernel, staged_source _,
    by decide +kernel, by decide +kernel, by decide +kernel⟩

/-- PARKED ramp 9 with no plan staged, and over a slot 23. -/
def parkedOver (sl : Slot) : State := (on (rec9 .parked none)).setSlot 23 sl

/-- Steps 4 to 6 of R12 for REPLACE PLAN, each check failing: source, slot, structure, conflict. -/
theorem witness_ReplacePlanSwaps_refused : (parkedOver .neverWritten).takes .loc ∧
    stageImage (parkedOver .neverWritten).stage = none ∧ slotArg 24 = none ∧
    ({ parkedOver .neverWritten with store := some ⟨.erase, 23, img9⟩ } : State).slotInFlight 23 = true ∧
    ((parkedOver .neverWritten).slotInFlight 23 = false ∧ ((parkedOver .neverWritten).slot 23).state = .empty) ∧
    ((parkedOver ⟨img9, false, .damaged, false⟩).slot 23).state = .damaged ∧
    (((parkedOver ⟨img9, false, .valid, false⟩).slot 23).state = .valid ∧
      ((parkedOver ⟨img9, false, .valid, false⟩).slot 23).agrees = false) ∧
    structureOk 9 badImg = false ∧
    ((staged (on (rec9 .parked none))).modChan 32 fun c => c.claim (.ramp 8) .entry).conflicts 9
      (settlePlan 9 img9).plan.layout.claims = true :=
  ⟨And.intro rfl rfl, by decide +kernel⟩

/-- Ramp 9's plan without a queue-end channel. -/
def noEnd : Plan := { p9 with layout := { p9.layout with queueEnd := none } }

theorem witness_ReplacePlanSwaps_end : ((on { rec9 .parked none with plan := some noEnd }).ramp 9).plan = some noEnd ∧
    noEnd.layout.queueEnd ≠ (settlePlan 9 img9).plan.layout.queueEnd := by decide +kernel

/-- Ramp 9's image with no entry channel, and with its two demand channels changed about and a new one in place of the second. -/
def noEntry : Table Byte 64 := img9.set 8 0xFF
def newDemand : Table Byte 64 := (img9.set 10 38).set 12 34

/-- The held health of a kept claim and of a new one, the hold without an entry channel and under one, and the demand fields that go
with channel 34 from lane 1 to lane 2. -/
theorem witness_ReplacePlanSwaps_carried : structureOk 9 noEntry = true ∧ (settlePlan 9 noEntry).plan.layout.entry = none ∧
    p9.layout.entry = some 32 ∧ ((32, Kind.entry) ∈ p9.layout.claims) ∧ structureOk 9 newDemand = true ∧
    (settlePlan 9 newDemand).plan.layout.demand.get 1 = some 34 ∧ p9.layout.demand.get 0 = some 34 ∧
    (settlePlan 9 newDemand).plan.layout.demand.get 0 = some 38 ∧ (∀ j, p9.layout.demand.get j ≠ some 38) ∧
    (38, Kind.demand) ∉ p9.layout.claims ∧
    (settlePlan 9 newDemand).plan.layout.demand.get 2 = none := by decide +kernel

/-- Ramp 9 in a state with its plan. -/
def inState (s : State) (st : RampState) : Bool :=
  decide ((s.ramp 9).state = st) && decide ((s.ramp 9).plan = some p9) && (s.ramp 9).allows .loc

theorem witness_ramp_commands (st : RampState) (l : Link) : (on (rec9 st none)).takes l := takes_on _ l

/-- AMEND, RETIRE, OPEN, CLOSE and CLEAR LOCKOUT: each state they are taken in, with the plan and the authority. -/
theorem witness_AmendTaken_RetireTaken_OpenTaken_CloseTaken : rampArg 9 = some 9 ∧
    inState (on (rec9 .parked none)) .parked = true ∧ inState (on (rec9 .opening (some .warn))) .opening = true ∧
    inState (on (rec9 .metering none)) .metering = true ∧ inState (on (rec9 .flushing none)) .flushing = true ∧
    inState (on (rec9 .closing (some .settle))) .closing = true ∧ inState (on (rec9 .lockout none)) .lockout = true ∧
    (on (rec9 .parked none)).permit = true ∧ ({ on (rec9 .parked none) with permit := false } : State).permit = false ∧
    0 < p9.timing.warn ∧ ({ p9 with timing := { p9.timing with warn := 0 } } : Plan).timing.warn = 0 := by
  decide +kernel

/-- A METERING ramp entering CLOSING: a lane not settled, both settled, and the close green 0. -/
theorem witness_ClosingEntered : (0 : LaneNo) ∈ p9.laneList ∧ 0 < p9.timing.closeGreen ∧
    (cyc .green 3 6000).settled p9.timing.minRed = false ∧ (cyc .ready 6000 34).settled p9.timing.minRed = false ∧
    (cyc .ready 6000 35).settled p9.timing.minRed = true ∧
    ({ p9 with timing := { p9.timing with closeGreen := 0 } } : Plan).timing.closeGreen = 0 := by decide +kernel

/-- Ramp 9 in LOCKOUT with and without a lamp proved. -/
theorem witness_ClearLockoutTaken : (on (rec9 .lockout none)).takes .loc ∧
    (((lane (on (rec9 .lockout none)) 1 { Head.resetContext with greenProved := true }).head (headOf 9 1)).greenProved =
        true ∧ (1 : LaneNo) ∈ p9.laneList) ∧
    (∀ k ∈ p9.laneList, ((on (rec9 .lockout none)).head (headOf 9 k)).redProved = false ∧
      ((on (rec9 .lockout none)).head (headOf 9 k)).greenProved = false) ∧
    ((on (rec9 .lockout none)).ramp 9).retirePending = false ∧
    ((on { rec9 .lockout none with retirePending := true }).ramp 9).retirePending = true :=
  ⟨takes_on _ _, by decide +kernel⟩

theorem witness_RampCommandsRefused : up.takes .loc ∧ rampArg 16 = none ∧ rampArg 0 = some 0 ∧ (up.ramp 0).state = .vacant ∧
    (((on (rec9 .lockout none)).ramp 9).plan.isSome = true ∧ ((on (rec9 .lockout none)).ramp 9).state ≠ .vacant) ∧
    ((on { rec9 .parked none with authority := some .centre }).ramp 9).authority = some .centre ∧ Link.centre ≠ .loc :=
  ⟨takes_up _, by decide +kernel⟩

/-! ### Ramp events -/

theorem witness_WarnEnds : up.resetHeld = false ∧ (rec9 .opening (some .warn)).state = .opening ∧
    (rec9 .opening (some .warn)).plan = some p9 ∧
    p9.timing.warn ≤ ({ rec9 .opening (some .warn) with subTimer := 45 } : Ramp).subTimer ∧
    (0 : LaneNo) ∈ p9.laneList ∧ (2 : LaneNo) ∉ p9.laneList := by decide +kernel

/-- The queue-end presence effective for the dwell on ramp 9. -/
def dwelt (st : RampState) (sub : Option SubPhase) : Ramp :=
  { rec9 st sub with held := [(33, .good)], qeOn := true, contOn := 100, subTimer := 35 }

theorem test_dwelt_shaped {st : RampState} {sub : Option SubPhase} (h : (rec9 st sub).Shaped) (v : st ≠ .vacant) :
    (dwelt st sub).Shaped :=
  ⟨fun e => absurd e v, h.planned, h.opening, h.closing, h.settled, h.amended, h.pending, fun _ => rfl⟩

theorem witness_StartRedEnds : (dwelt .opening (some .startRed)).Shaped ∧ (dwelt .opening (some .startRed)).plan = some p9 ∧
    p9.timing.startRed ≤ (dwelt .opening (some .startRed)).subTimer ∧ (dwelt .opening (some .startRed)).dwellMet = true ∧
    ({ dwelt .opening (some .startRed) with contOn := 99 } : Ramp).dwellMet = false ∧
    (dwelt .opening (some .startRed)).alarmTaken = false ∧
    ({ dwelt .opening (some .startRed) with alarmTaken := true } : Ramp).alarmTaken = true :=
  ⟨test_dwelt_shaped (test_rec9_shaped (by decide) (by decide) (by decide)) (by decide), by decide +kernel⟩

/-- START-RED ending on ramp 9: the lowest lane is released, and takes one vehicle off Q or none as the hold is clear or set; with
GOOD demand channels clear no lane is called. -/
theorem witness_StartRedEnds_releases :
    reaches (exec (.startRedExpiry 9) (on { rec9 .opening (some .startRed) with subTimer := 35, q := 5, hold := false }))
      (fun t => decide ((t.head 27).cycle = .green) && decide ((t.head 28).cycle = .ready) &&
        decide ((t.ramp 9).q = 4)) = true ∧
    reaches (exec (.startRedExpiry 9) (on { rec9 .opening (some .startRed) with subTimer := 35, q := 5 }))
      (fun t => decide ((t.head 27).cycle = .green) && decide ((t.ramp 9).q = 5)) = true ∧
    reaches (exec (.startRedExpiry 9)
        (heads2 .opening (some .startRed) { cyc .hold 60 35 with demandHealth := some .good }
          { cyc .hold 60 35 with demandHealth := some .good } |>.modRamp 9 fun r => { r with subTimer := 35 }))
      (fun t => decide ((t.head 27).cycle = .ready) && decide ((t.head 28).cycle = .ready)) = true := by decide +kernel

/-- The alarm in the event that ends START-RED: Q at the storage capacity with the hold set, the interval of the effective max rate. -/
theorem witness_StartRedEnds_alarm : reaches (exec (.startRedExpiry 9) (on { dwelt .opening (some .startRed) with q := 3 }))
    (fun t => decide ((t.ramp 9).state = .flushing) && decide ((t.ramp 9).q = 250) &&
      decide ((t.ramp 9).intervals = [60, 60] ∧ (t.ramp 9).alarmTaken = true ∧ (t.ramp 9).dwellTaken = true) &&
      t.loc.set.any fun r => decide (r.detail = .flush .flushing .queueAlarm (some 33) 1 3 250)) = true := by decide +kernel

theorem witness_QueueAlarmTaken : (dwelt .metering none).Shaped ∧ (dwelt .parked none).Shaped ∧
    (dwelt .metering none).plan = some p9 ∧ (dwelt .metering none).effPresence = true ∧
    p9.queue.dwell * 100 ≤ (dwelt .metering none).contOn ∧ (dwelt .metering none).dwellTaken = false ∧
    (dwelt .metering none).hold = true ∧ (dwelt .parked none).state ≠ .metering ∧ (dwelt .metering none).alarmTaken = false ∧
    ({ dwelt .metering none with alarmTaken := true } : Ramp).alarmTaken = true :=
  ⟨test_dwelt_shaped (test_rec9_shaped (by decide) (by decide) (by decide)) (by decide),
    test_dwelt_shaped (test_rec9_shaped (by decide) (by decide) (by decide)) (by decide), by decide +kernel⟩

/-- With the hold clear the release of the new interval takes its vehicle off the storage capacity: lane 2 waits for its spacing. -/
theorem witness_QueueAlarmTaken_releases : reaches (exec (.queueAlarm 9)
      ((heads2 .metering none (cyc .hold 60 35) (cyc .ready 59 35)).modRamp 9 fun _ =>
        { dwelt .metering none with hold := false, q := 3 }))
    (fun t => decide ((t.ramp 9).q = 249) && decide ((t.head 27).cycle = .green) && decide ((t.head 28).cycle = .hold)) = true := by
  decide +kernel

theorem witness_FlushExitTaken : (rec9 .flushing none).plan = some p9 ∧
    p9.queue.flushHold * 100 ≤ ({ rec9 .flushing none with contOff := 2000, q := 40 } : Ramp).contOff ∧
    ({ rec9 .flushing none with contOff := 2000, q := 40 } : Ramp).q ≤ p9.queue.target ∧
    p9.queue.target < ({ rec9 .flushing none with contOff := 2000, q := 41 } : Ramp).q := by decide +kernel

/-- A ramp in TOGETHER order. -/
def together : Plan := { p9 with layout := { p9.layout with order := .together } }

/-- Lane 1 ripe at its boundary: released when it is called and lane 2's green start is old enough, READY alone when the
spacing is short. -/
theorem witness_LanesRelease : p9.layout.order = .staggered ∧ (0 : LaneNo) ∈ p9.laneList ∧ (rec9 .metering none).interval 0 = 60 ∧
    ((heads2 .metering none (cyc .hold 60 35) (cyc .ready 30 35)).head (headOf 9 0)).called = true ∧
    (heads2 .metering none (cyc .hold 60 35) (cyc .hold 30 35)).spaced 9 p9 0 = true ∧
    (heads2 .metering none (cyc .hold 60 35) (cyc .hold 29 35)).spaced 9 p9 0 = false ∧
    (∀ j ∈ p9.laneList, (heads2 .metering none (cyc .hold 60 35) (cyc .hold 29 35)).releasable 9 p9 j = false) ∧
    (rec9 .closing (some .settle)).settling = true ∧ (rec9 .metering none).cycling = true ∧
    ((heads2 .metering none (cyc .hold 60 35) (cyc .ready 30 35)).head (headOf 9 0)).cycle = .hold ∧
    (heads2 .metering none (cyc .ready 60 35) (cyc .hold 30 35)).releasable 9 p9 0 = true := by decide +kernel

theorem witness_LanesRelease_together : together.layout.order = .together ∧ (1 : LaneNo) ∈ together.laneList ∧
    (∀ j ∈ together.laneList,
      ((heads2 .metering none (cyc .hold 60 35) (cyc .hold 60 35)).head (headOf 9 j)).cycle = .hold ∧
      (rec9 .metering none).interval j ≤
        ((heads2 .metering none (cyc .hold 60 35) (cyc .hold 60 35)).head (headOf 9 j)).sinceStart ∧
      together.timing.minRed ≤ ((heads2 .metering none (cyc .hold 60 35) (cyc .hold 60 35)).head (headOf 9 j)).sinceEnd) ∧
    (heads2 .metering none (cyc .hold 60 35) (cyc .hold 60 35)).groupCalled 9 together = true := by decide +kernel

/-- FLUSHING ramp 9 with its hold clear, at the flush hold: a lane whose passage channel is not GOOD takes a vehicle off Q, and ends the
flush when 40 are left; with that channel GOOD lane 1 takes none. -/
def flushHeld (h : Health) (q : Nat) : Ramp :=
  { rec9 .flushing none with held := [(35, h)], hold := false, contOff := 2000, q := q }

theorem witness_LanesRelease_takes : (flushHeld .failed 42).takingOff [0, 1] = [0, 1] ∧
    (flushHeld .good 42).takingOff [0, 1] = [1] ∧ ({ flushHeld .failed 42 with hold := true } : Ramp).takingOff [0, 1] = [] ∧
    (flushHeld .failed 42).qAfter p9 [0, 1] = 40 ∧ (flushHeld .failed 1).qAfter p9 [0, 1] = 0 ∧
    reaches (exec (.laneReady 9 0) (lane (lane (on (flushHeld .failed 41)) 0 (cyc .hold 60 35)) 1 (cyc .hold 6000 35)))
      (fun t => decide ((t.head 27).cycle = .green) && decide (t.ramp 9 =
        { flushHeld .failed 41 with q := 40, state := .metering })) = true ∧
    reaches (exec (.laneReady 9 0) (lane (lane (on (flushHeld .failed 42)) 0 (cyc .hold 60 35)) 1 (cyc .hold 6000 35)))
      (fun t => decide (t.ramp 9 = { flushHeld .failed 42 with q := 41 })) = true ∧
    reaches (exec (.laneReady 9 0) (lane (lane (on (flushHeld .good 42)) 0 (cyc .hold 60 35)) 1 (cyc .hold 6000 35)))
      (fun t => decide ((t.head 27).cycle = .green) && decide (t.ramp 9 = flushHeld .good 42)) = true := by decide +kernel

theorem witness_LanesRelease_group : (rec9 .closing (some .settle)).settling = true ∧
    (heads2 .metering none { cyc .hold 60 35 with demandHealth := some .good } (cyc .hold 60 35)).groupCalled 9 together =
      false ∧
    reaches (exec (.laneReady 9 1)
        (lane (lane (on { rec9 .closing (some .settle) with plan := some together }) 0 (cyc .hold 60 35)) 1 (cyc .hold 60 35)))
      (fun t => decide ((t.head 27).cycle = .ready) && decide ((t.head 28).cycle = .ready)) = true ∧
    reaches (exec (.laneReady 9 1)
        (lane (lane (on { rec9 .metering none with plan := some together }) 0 (cyc .hold 60 35)) 1 (cyc .hold 60 35)))
      (fun t => decide ((t.head 27).sinceStart = 0) && decide ((t.head 28).sinceStart = 0) &&
        decide ((t.head 28).cycle = .green)) = true := by decide +kernel

theorem witness_GreenEnds : (1 : LaneNo) ∈ p9.laneList ∧
    ((heads2 .metering none (cyc .hold 10 10) (cyc .green 25 100)).head (headOf 9 1)).cycle = .green ∧
    p9.timing.green ≤ ((heads2 .metering none (cyc .hold 10 10) (cyc .green 25 100)).head (headOf 9 1)).sinceStart := by
  decide +kernel

theorem witness_SettleCompletes_CloseGreenEnds : (rec9 .closing (some .settle)).sub = some .settle ∧
    (∀ k ∈ p9.laneList,
      ((heads2 .closing (some .settle) (cyc .hold 60 35) (cyc .ready 60 35)).head (headOf 9 k)).settled p9.timing.minRed =
        true) ∧ 0 < p9.timing.closeGreen ∧
    ({ p9 with timing := { p9.timing with closeGreen := 0 } } : Plan).timing.closeGreen = 0 ∧
    (rec9 .closing (some .green)).sub = some .green ∧
    p9.timing.closeGreen ≤ ({ rec9 .closing (some .green) with closeTimer := 300 } : Ramp).closeTimer := by decide +kernel

/-- A READY lane with a GOOD demand channel clear for the empty time. -/
def clear : Head := { cyc .ready 60 35 with demandHealth := some .good, demandOff := 50 }

/-- START-RED ending with every lane clear: no lane is called, and the empty judgement is reported in the event. -/
theorem witness_StartRedEnds_reports :
    reaches (exec (.startRedExpiry 9) ((heads2 .opening (some .startRed) clear clear).modRamp 9 fun r =>
        { r with subTimer := 35, q := 5 }))
      (fun t => decide ((t.head 27).cycle = .ready ∧ (t.head 28).cycle = .ready) &&
        decide ((t.ramp 9).emptyPending = true ∧ (t.ramp 9).emptyJudged = true ∧ (t.ramp 9).q = 5)) = true := by decide +kernel

/-- LANE READY of lane 1 with lane 2 READY, both clear for the empty time: the judgement is reported in the event, once. -/
theorem witness_LanesRelease_reports :
    ((heads2 .metering none { clear with cycle := .hold } clear).head 27).called = false ∧
    (∀ j ∈ p9.laneList, (heads2 .metering none { clear with cycle := .hold } clear).releasable 9 p9 j = false) ∧
    reaches (exec (.laneReady 9 0) (heads2 .metering none { clear with cycle := .hold } clear)) (fun t =>
      decide (t.ramp 9 = { rec9 .metering none with emptyJudged := true, emptyPending := true })) = true ∧
    reaches (exec (.laneReady 9 0) ((heads2 .metering none { clear with cycle := .hold } clear).modRamp 9 fun r =>
      { r with emptyJudged := true })) (fun t => decide ((t.ramp 9).emptyPending = false)) = true ∧
    reaches (exec (.laneReady 9 0) (heads2 .metering none { clear with cycle := .hold } { clear with demandOff := 49 }))
      (fun t => decide (t.ramp 9 = rec9 .metering none)) = true := by decide +kernel

/-- A judgement in transit is taken although no lane is clear now; the flush ends at its flush hold and not below it; in PARKED the
judgement is disregarded. -/
theorem witness_EmptyJudged_pending :
    reaches (exec (.emptyJudgement 9) (on { rec9 .metering none with emptyPending := true, q := 7 })) (fun t =>
      decide (t.ramp 9 = rec9 .metering none)) = true ∧
    reaches (exec (.emptyJudgement 9) (on { rec9 .flushing none with emptyPending := true, q := 7, contOff := 2000 }))
      (fun t => decide ((t.ramp 9).state = .metering ∧ (t.ramp 9).q = 0) &&
        t.centre.set.any fun r => decide (r.kind = .rampState ∧ r.detail = .rampState .metering .flushEnded)) = true ∧
    reaches (exec (.emptyJudgement 9) (on { rec9 .flushing none with emptyPending := true, q := 7, contOff := 1999 }))
      (fun t => decide ((t.ramp 9).state = .flushing ∧ (t.ramp 9).q = 0) && decide (t.centre.set = up.centre.set)) = true ∧
    reaches (exec (.emptyJudgement 9) (on { rec9 .parked none with emptyPending := true, q := 7 })) (fun t =>
      decide (t.ramp 9 = { rec9 .parked none with q := 7 })) = true ∧
    reaches (exec (.emptyJudgement 9) (heads2 .metering none clear { clear with demandOff := 49 })) (fun t =>
      decide (t = heads2 .metering none clear { clear with demandOff := 49 })) = true := by decide +kernel

theorem witness_EmptyJudged : (rec9 .metering none).emptyJudged = false ∧ (rec9 .flushing none).state = .flushing ∧
    (∀ k ∈ p9.laneList, ((heads2 .metering none clear clear).head (headOf 9 k)).cycle = .ready ∧
      (p9.layout.demand.get k).isSome = true ∧
      ((heads2 .metering none clear clear).head (headOf 9 k)).demandHealth = some .good ∧
      p9.queue.emptyTime ≤ ((heads2 .metering none clear clear).head (headOf 9 k)).demandOff) := by decide +kernel

/-- A RED head with nothing proved, for the tolerance. -/
def redOut : Head := { cyc .hold 60 35 with mismatch := 30 }

/-- Each timed row with a state at the boundary of its condition, in which it is due, and one just below, in which it is not. -/
def boundaries : List (Instr × State × State) :=
  let on9 (st : RampState) (sub : Option SubPhase) (f : Ramp → Ramp) : State := on (f (rec9 st sub))
  let entry (n : Nat) : State :=
    (up.modChan 32 fun c => { c with sampling := some .entry, presence := true, contOn := n })
  [(.windowTimerExpiry, { up with elapsed := 2000 }, { up with elapsed := 1999 }),
    (.windowSelfClose, { up with settings := { Settings.default with source := .line }, elapsed := 9000 },
      { up with settings := { Settings.default with source := .line }, elapsed := 8999 }),
    (.presenceQualified 32, entry 4, entry 3),
    (.stuckOn 32, entry 6000, entry 5999),
    (.warnTimerExpiry 9, on9 .opening (some .warn) ({ · with subTimer := 45 }), on9 .opening (some .warn) ({ · with subTimer := 44 })),
    (.startRedExpiry 9, on9 .opening (some .startRed) ({ · with subTimer := 35 }),
      on9 .opening (some .startRed) ({ · with subTimer := 34 })),
    (.queueAlarm 9, on (dwelt .parked none), on { dwelt .parked none with contOn := 99 }),
    (.flushHoldReached 9, on9 .flushing none ({ · with contOff := 2000, q := 40 }), on9 .flushing none ({ · with contOff := 2000, q := 41 })),
    (.flushHoldReached 9, on9 .flushing none ({ · with contOff := 2001, q := 0 }), on9 .flushing none ({ · with contOff := 1999, q := 0 }))] ++
  [(.laneReady 9 0, heads2 .metering none (cyc .hold 60 35) (cyc .hold 0 0), heads2 .metering none (cyc .hold 59 35) (cyc .hold 0 0)),
    (.laneReady 9 1, heads2 .closing (some .settle) (cyc .hold 0 0) (cyc .hold 60 35),
      heads2 .closing (some .settle) (cyc .hold 0 0) (cyc .hold 60 34)),
    (.spacingExpiry 9 0, heads2 .metering none (cyc .ready 60 35) (cyc .hold 30 5),
      heads2 .metering none (cyc .ready 60 35) (cyc .hold 29 5)),
    (.greenEnd 9 0, heads2 .metering none (cyc .green 25 6000) (cyc .hold 0 0),
      heads2 .metering none (cyc .green 24 6000) (cyc .hold 0 0)),
    (.settleComplete 9, heads2 .closing (some .settle) (cyc .hold 0 35) (cyc .ready 0 35),
      heads2 .closing (some .settle) (cyc .hold 0 35) (cyc .ready 0 34)),
    (.closeGreenEnd 9, on9 .closing (some .green) ({ · with closeTimer := 300 }), on9 .closing (some .green) ({ · with closeTimer := 299 })),
    (.emptyJudgement 9, heads2 .flushing none clear clear, heads2 .flushing none clear { clear with demandOff := 49 }),
    (.emptyJudgement 9, on9 .metering none ({ · with emptyPending := true }), on9 .metering none id)] ++
  [(.provingFaultDeclared 27, lane up 0 redOut, lane up 0 { redOut with mismatch := 29 }),
    (.provingFaultDeclared 27, lane up 0 { redOut with due := some .redOut, mismatch := 0 },
      lane up 0 { redOut with standing := true, lastFault := some .redOut }),
    (.overrideExpiry 9, on9 .parked none ({ · with override := some ⟨300, some 1, .loc, 100⟩ }),
      on9 .parked none ({ · with override := some ⟨300, some 1, .loc, 99⟩ })),
    (.supervisionLapse .centre, { up with centre := { up.centre with supervised := true, supTimer := 90 } },
      { up with centre := { up.centre with supervised := true, supTimer := 89 } }),
    (.receiveGapTimeout .loc, { up with loc := { up.loc with rx := .assembling [], gap := 3 } },
      { up with loc := { up.loc with rx := .assembling [], gap := 2 } })]

theorem witness_IdleStep_boundaries :
    (boundaries.all fun x => x.2.1.due.contains x.1 && !x.2.2.due.contains x.1) = true := by decide +kernel

/-! ### The rate and authority -/

theorem witness_BulletinTaken : up.resetHeld = false ∧
    ({ on (metering5 900 9 none) with transit := [(summary faulty faulty faulty, zone2 207)] } : State).transit =
      (summary faulty faulty faulty, zone2 207) :: [] ∧
    (metering5 900 9 none).installAmendment.plan = some p5 ∧
    ({ metering5 900 9 none with state := .flushing } : Ramp).amendment = none := by decide +kernel

/-- Ramp 9 FLUSHING with a pending amendment that raises its queue target to `target`, and a bulletin on its way. -/
def flushAmended (target : Nat) : State :=
  { on { metering5 1500 9 none with
      state := .flushing, contOff := 1500, amendment := some ⟨{ p5.control with maxRate := 900 }, target, 900, []⟩ } with
    transit := [(summary faulty faulty faulty, zone2 207)] }

/-- The exit of R105 brought by an amendment, and the flush that goes on when the target stays below Q. -/
theorem witness_BulletinTaken_flushing : ((flushAmended 9).ramp 9).amendment.isSome = true ∧
    ((flushAmended 9).ramp 9).plan = some p5 ∧
    reaches (exec .bulletinArrival (flushAmended 9)) (fun t => decide ((t.ramp 9).state = .metering) &&
      decide ((t.ramp 9).applied = 900) && decide ((t.ramp 9).limiting = some .flush)) = true ∧
    reaches (exec .bulletinArrival (flushAmended 8)) (fun t => decide ((t.ramp 9).state = .flushing)) = true := by
  decide +kernel

/-- An update that lengthens the interval takes a READY lane back to HOLD, and one that shortens it releases a lane in HOLD. -/
theorem witness_BulletinTaken_lanes :
    reaches (exec .bulletinArrival (lane { on (metering5 900 9 none) with transit := [(summary faulty faulty faulty, zone2 207)] }
        0 (cyc .ready 100 35))) (fun t => decide ((t.ramp 9).applied = 600 ∧ (t.head 27).cycle = .hold)) = true ∧
    reaches (exec .bulletinArrival (lane { on (metering5 300 9 none) with transit := [(summary faulty faulty faulty, zone2 207)] }
        0 (cyc .hold 120 35))) (fun t => decide ((t.ramp 9).applied = 600 ∧ (t.head 27).cycle = .green)) = true := by
  decide +kernel

theorem witness_FinalValueInRange : (240 : Nat) ≤ 1500 ∧ (148 : Int) < 240 ∧ (1500 : Int) < 1501 ∧
    (metering5 900 9 none).effMax = some 1500 ∧ p5.control.minRate ≤ 1500 := by decide +kernel

/-- The branches of an update: an entry channel VALID and not, a VALID mainline entry and none, a zone's share and none, two zones
of one limit, Q at the target and above it. -/
theorem witness_FinalValueInRange_branches : p5.layout.entry = some 32 ∧
    ((summary faulty faulty faulty).entries.get 32).validity ≠ .valid ∧
    ((summary faulty faulty (valid 0 4)).entries.get 32).validity = .valid ∧
    (summary faulty (valid 150 0) faulty).meanOccupancy p5.layout.mainline = some 150 ∧
    (summary faulty faulty faulty).meanOccupancy p5.layout.mainline = none ∧
    (zone2 207).share 5 2 = some 207 ∧ (zone2 207).share 5 1 = none ∧ (zone2 207).share 4 2 = none ∧
    ¬ p5.queue.target < (metering5 900 10 none).q ∧ p5.queue.target < (metering5 900 11 none).q ∧
    (metering5 900 9 none).update p5 5 (summary faulty faulty faulty)
      ⟨1530, [⟨1, .restricting, 500, [(5, 400)]⟩, ⟨2, .restricting, 500, [(5, 400)]⟩]⟩ = (500, .zone 1) := by
  decide +kernel

theorem witness_AuthorityTaken_AuthorityYielded : up.takes .centre ∧ (9 : Byte) ≠ 0xFF ∧ rampArg 0xFE = none ∧
    rampArg 9 = some 9 ∧ (up.ramp 9).state = .vacant ∧ (rec9 .parked none).state ≠ .vacant ∧
    (rec9 .parked none).authority = none ∧ up.takeover = false ∧
    ({ rec9 .parked none with authority := some .centre } : Ramp).authority = some .centre ∧
    ({ up with takeover := true } : State).takeover = true :=
  ⟨takes_up _, by decide +kernel⟩

theorem witness_OverridesSetAndEnded : (on (rec9 .parked none)).takes .loc ∧ rampArg 9 = some 9 ∧
    (rec9 .parked none).plan.isSome = true ∧ (rec9 .parked none).allows .loc = true ∧
    (60 ≤ (60 : Word).toNat ∧ (5400 : Word).toNat ≤ 5400 ∧ (7200 : Word).toNat ≤ 7200) ∧
    ((59 : Word).toNat < 60 ∧ 5400 < (5401 : Word).toNat ∧ 7200 < (7201 : Word).toNat) ∧
    (({ rec9 .metering none with override := some ⟨300, some 1, .loc, 100⟩ } : Ramp).override =
      some ⟨300, some 1, .loc, 100⟩ ∧ 1 ≤ 1 ∧ 100 ≤ 100) ∧
    (Override.count ⟨300, some 2, .loc, 99⟩ = ⟨300, some 1, .loc, 0⟩ ∧
      Override.count ⟨300, some 1, .loc, 99⟩ = ⟨300, some 1, .loc, 100⟩) :=
  ⟨takes_on _ _, by decide +kernel⟩

/-! ### Zones and settings -/

/-- PARKED ramp 9 with its entry channel claimed and zone 2 defined, and with three zones that name it. -/
def withDetector : State :=
  ((on (rec9 .parked none)).modChan 32 fun c => c.claim (.ramp 9) .entry).setZone 2 { zoneRecord2 with members := [(9, 1)] }
def threeZones : State :=
  (withDetector.setZone 3 { zoneRecord2 with members := [(9, 1)] }).setZone 4
    { zoneRecord2 with members := [], amendment := some ⟨none, none, none, [], [(9, 1)]⟩ }

/-- ZONE DEFINE of zone 5 over channel 63 with ramp 9. -/
def define5 : ZoneDefineArgs := ⟨5, [63], 50, 1, 3000, [(9, 15)]⟩

theorem witness_ZoneDefined : (on (rec9 .parked none)).takes .loc ∧ zoneArg define5.zone = some 5 ∧
    ((on (rec9 .parked none)).zone 5).state = .vacant ∧ allArgs chanArg define5.detectors = some [63] ∧
    allArgs memberArg define5.members = some [(9, 15)] ∧ 50 ≤ define5.oc.toNat ∧ 1 ≤ define5.gz.toNat ∧
    define5.rmax.toNat ≤ 3000 ∧ noRepeat [(63 : Chan)] = true ∧ ((on (rec9 .parked none)).chan 63).kind = none ∧
    noRepeat [(9 : RampNo)] = true ∧ ((on (rec9 .parked none)).ramp 9).state ≠ .vacant ∧
    (on (rec9 .parked none)).zoneCount 9 < 3 :=
  ⟨takes_on _ _, by decide +kernel⟩

/-- ZONE DEFINE with each check of R80 failing in its turn. -/
theorem witness_ZoneDefined_refused : zoneArg 6 = none ∧ (withDetector.zone 2).state ≠ .vacant ∧
    ¬ 1 ≤ ([] : List Byte).length ∧ allArgs chanArg [64] = none ∧ ¬ 50 ≤ (49 : Word).toNat ∧ ¬ (601 : Word).toNat ≤ 600 ∧
    ¬ 1 ≤ (0 : Byte).toNat ∧ ¬ (3001 : Word).toNat ≤ 3000 ∧ ¬ (List.replicate 7 ((9 : Byte), (1 : Byte))).length ≤ 6 ∧
    allArgs memberArg [(9, 16)] = none ∧ allArgs memberArg [(9, 0)] = none ∧ noRepeat [(63 : Chan), 63] = false ∧
    (withDetector.chan 32).kind = some .entry ∧ noRepeat [(9 : RampNo), 9] = false ∧ (withDetector.ramp 0).state = .vacant ∧
    ¬ threeZones.zoneCount 9 + 1 ≤ 3 := by decide +kernel

/-- Zone 2 defined, owned by the centre link, with ramp 9 not yet a member. -/
def withZone2 : State := (on (rec9 .parked none)).setZone 2 { zoneRecord2 with members := [] }
/-- A change of Oc and Rmax with an addition, and a change of nothing. -/
def amend2 : ZoneAmendArgs := ⟨2, 600, 0, 3000, [], [(9, 1)]⟩
def amendNothing : ZoneAmendArgs := ⟨2, 0xFFFF, 0, 0xFFFF, [], []⟩

theorem takes_withZone2 (l : Link) : withZone2.takes l := And.intro rfl (by cases l <;> rfl)

theorem witness_ZoneAmended : withZone2.takes .centre ∧ (∀ k, k ≠ Link.centre → (withZone2.zone 2).owner ≠ some k) ∧
    zoneArg amend2.zone = some 2 ∧ (withZone2.zone 2).state ≠ .vacant ∧
    (50 ≤ amend2.oc.toNat ∧ amend2.oc.toNat ≤ 600 ∧ amend2.rmax.toNat ≤ 3000) ∧
    (amendNothing.oc = 0xFFFF ∧ amendNothing.rmax = 0xFFFF) ∧ allArgs memberArg amend2.weights = some [] ∧
    allArgs memberArg amend2.additions = some [(9, 1)] ∧ noRepeat [(9 : RampNo)] = true ∧
    ((withZone2.zone 2).names 9 = false ∧ (withZone2.ramp 9).state ≠ .vacant ∧ withZone2.zoneCount 9 < 3) ∧
    (withZone2.zone 2).members.length + (withZone2.zone 2).additions.length + 1 ≤ 6 :=
  ⟨takes_withZone2 _, fun k h => by cases k <;> first | decide +kernel | exact absurd rfl h, by decide +kernel⟩

/-- Zone 2 with ramp 9 as a member and an addition pending, and a command that changes both weights, one of them twice. -/
def amended2 : ZoneAmendment := ⟨none, some 7, none, [(9, 3)], [(5, 2)]⟩
def changes2 : List (RampNo × Nat) := [(9, 4), (5, 6), (9, 8)]

theorem test_weights_merge : amended2.merge (.value 600) .keep (.value 0) changes2 [(7, 1)] =
    ⟨some 600, some 7, some 0, [(9, 8)], [(5, 6), (7, 1)]⟩ ∧ lastWeight 9 changes2 = some 8 ∧
    lastWeight 7 changes2 = none := by decide +kernel

/-- ZONE AMEND with each check of R83 failing in its turn. -/
theorem witness_ZoneAmended_refused : zoneArg 6 = none ∧ (withZone2.zone 0).state = .vacant ∧
    (withZone2.zone 2).owner = some .centre ∧ (Link.centre ≠ .loc) ∧ allArgs memberArg [(16, 1)] = none ∧
    ((49 : Word) ≠ 0xFFFF ∧ ¬ 50 ≤ (49 : Word).toNat) ∧ (withZone2.zone 2).names 9 = false ∧
    noRepeat [(9 : RampNo), 9] = false ∧ (withDetector.zone 2).names 9 = true ∧ (withZone2.ramp 0).state = .vacant ∧
    ¬ (withDetector.zone 2).members.length + (withDetector.zone 2).additions.length + 6 ≤ 6 ∧
    ¬ threeZones.zoneCount 9 + 1 ≤ 3 := by decide +kernel

theorem witness_ZoneDissolved : withZone2.takes .loc ∧ zoneArg 2 = some 2 ∧ (withZone2.zone 2).state ≠ .vacant ∧
    (Link.centre ≠ .loc ∧ (withZone2.zone 2).owner = some .centre) ∧ zoneArg 6 = none ∧ (withZone2.zone 0).state = .vacant :=
  ⟨takes_withZone2 _, by decide +kernel⟩

theorem witness_SharesSumToReduction :
    (summary (valid 251 0) (valid 262 0) (valid 247 0)).meanOccupancy zoneRecord2.detectors = some 253 ∧
    (∀ m ∈ zoneRecord2.members, 1 ≤ m.2) ∧ (zoneRecord2.members.filter fun _ => (metering5 900 9 none).eligible) ≠ [] ∧
    (zoneRecord2.members.filter fun _ => (metering5 900 9 (some 300)).eligible) = [] ∧
    0 < (zoneRecord2.evaluate (summary (valid 251 0) (valid 262 0) (valid 247 0))
      fun _ => metering5 900 9 (some 300)).zone.r ∧
    (zoneRecord2.evaluate (summary (valid 200 0) (valid 0 0) (valid 0 0)) fun _ => metering5 900 9 none).zone.r = 0 := by
  decide +kernel

theorem witness_ZoneEvaluates : (summary faulty faulty faulty).meanOccupancy [30, 31] = none ∧
    (summary (valid 251 0) (valid 262 0) (valid 247 0)).meanOccupancy [30, 31, 32] = some 253 := by decide +kernel

/-- The defaults of R58 as the arguments of CORRIDOR SET, with the supervision time of the local link 600. -/
def corridor (length : Byte) : CorridorArgs :=
  ⟨0, length, ⟨[⟨4, 60, 30, 20⟩, ⟨4, 60, 45, 20⟩, ⟨4, 180, 0, 20⟩, ⟨4, 30, 45, 20⟩, ⟨4, 900, 0, 20⟩], rfl⟩, 3, 10, 30, 600, 90⟩

theorem witness_CorridorSetTaken : up.takes .loc ∧ settingsArg (corridor 20) = some Settings.default ∧
    settingsArg (corridor 9) = none ∧ (settingsArg (corridor 60)).isSome = true ∧
    (({ up with centre := { up.centre with supervised := true, supTimer := 90 } } : State).link .centre).supervised = true ∧
    0 < (corridor 20).centreTime.toNat ∧ (corridor 20).centreTime.toNat ≤ 90 ∧ (up.link .centre).supervised = false :=
  ⟨takes_up _, by decide +kernel⟩

/-- The ends of the ranges of CORRIDOR SET: a window source, a window length, a kind's three bounded parameters, and a time. -/
theorem witness_CorridorSetTaken_ranges :
    (settingsArg { corridor 60 with source := 1 }).isSome = true ∧ settingsArg { corridor 20 with source := 2 } = none ∧
    settingsArg (corridor 61) = none ∧ (settingsArg (corridor 10)).isSome = true ∧
    (([⟨20, 1800, 255, 255⟩, ⟨1, 10, 0, 1⟩] : List KindArgs).all fun k =>
      (settingsArg { corridor 20 with kinds := Table.fill 5 k }).isSome) = true ∧
    (([⟨21, 60, 0, 20⟩, ⟨0, 60, 0, 20⟩, ⟨4, 9, 0, 20⟩, ⟨4, 1801, 0, 20⟩, ⟨4, 60, 0, 0⟩] : List KindArgs).all fun k =>
      (settingsArg { corridor 20 with kinds := Table.fill 5 k }).isNone) = true ∧
    settingsArg { corridor 20 with localTime := 601 } = none ∧ settingsArg { corridor 20 with tolerance := 9 } = none ∧
    settingsArg { corridor 20 with persistence := 16 } = none ∧ settingsArg { corridor 20 with recovery := 61 } = none := by
  decide +kernel

/-! ### The plan store -/

theorem witness_StageCommandsTaken : (on (rec9 .parked none)).takes .loc ∧ (3 : Byte).toNat = (3 : Fin 4).val ∧
    rampArg 9 = some 9 ∧ up.store = none ∧ up.scan.running = false ∧ up.stage.get 3 = none ∧
    (staged up).stage.get 3 ≠ none ∧ ((on (rec9 .parked none)).ramp 9).plan = some p9 ∧ (up.ramp 9).state = .vacant ∧
    ({ up with store := storing } : State).store ≠ none ∧ State.reset.scan.running = true :=
  ⟨takes_on _ _, by decide +kernel⟩

/-- The image of ramp 9's plan: settled values at their offsets, 255 for absent channels and for lane 3, 0 where there is no field. -/
theorem test_image9 : imageOf p9 = p9.image.cells ∧ imageOf p9 =
    [9, 2, 1, 3, 30, 31, 255, 255, 32, 33, 34, 35, 36, 255, 255, 255] ++
    [25, 35, 0, 45, 0, 35, 1, 44, 0, 0, 0, 0, 0, 0, 0, 0] ++ [1, 244, 112, 1, 44, 7, 8, 4, 176, 1, 44, 0, 0, 0, 0, 0] ++
    [250, 40, 1, 20, 0, 50, 0, 0, 0, 0, 0, 0, 0, 0, 0, 0] := by decide +kernel

theorem witness_StageCommandsTaken_SlotCommandsTaken_range : ({ up with store := storing } : State).takes .loc ∧
    3 < (4 : Byte).toNat ∧ 15 < (16 : Byte).toNat ∧ 23 < (24 : Byte).toNat ∧ ¬ 3 < (3 : Byte).toNat ∧
    ¬ 15 < (15 : Byte).toNat ∧ ¬ 23 < (23 : Byte).toNat :=
  ⟨And.intro rfl rfl, by decide⟩

theorem witness_SlotCommandsTaken : up.takes .centre ∧ slotArg 23 = some 23 ∧ stageImage up.stage = none ∧
    stageImage (staged up).stage = some img9 ∧ (up.slot 23).guarded = false ∧
    ((slotted ⟨img9, true, .valid, true⟩).slot 23).guarded = true ∧ (up.slot 23).state = .empty ∧
    ((slotted ⟨img9, false, .damaged, false⟩).slot 23).state = .damaged ∧
    (((slotted ⟨img9, true, .valid, true⟩).slot 23).state = .valid ∧
      ((slotted ⟨img9, true, .valid, true⟩).slot 23).agrees = true) ∧
    ((slotted ⟨img9, false, .valid, true⟩).slot 23).agrees = false :=
  ⟨takes_up _, by decide, by decide +kernel, stageImage_fullStage img9, by decide +kernel⟩

theorem witness_StoreCompletes_ProtectionTaken : ({ up with store := storing } : State).store = some ⟨.store, 0, img9⟩ ∧
    ({ up with store := some ⟨.erase, 23, img9⟩ } : State).store = some ⟨.erase, 23, img9⟩ ∧
    ({ up with scan := .afterStore } : State).scan = .afterStore ∧ up.scan ≠ .afterStore ∧
    (0 : SlotNo) ≠ 23 ∧ Link.loc = .loc ∧ slotArg 24 = none ∧ slotArg 23 = some 23 ∧ ({ up with takeover := true } : State).takeover = true ∧
    State.reset.scan.running = true := by decide +kernel

/-- The scan at slot 23 over a slot. -/
def scanning (sl : Slot) : State := { slotted sl with scan := .at 23 }
/-- Ramp 9's image with other options, and with a bound ramp out of range. -/
def notAuto : Table Byte 64 := img9.set 3 1
def autoOpen : Table Byte 64 := img9.set 3 7
def unbound : Table Byte 64 := img9.set 0 16

/-- The counts of a report with two slots EMPTY, one DAMAGED, one OPENED, and 20 not reached. -/
theorem test_outcome_counts : outcomeCounts ((((Table.fill 24 none).set 0 (some ⟨.empty, none⟩)).set 5 (some ⟨.damaged, none⟩)
    |>.set 9 (some ⟨.empty, none⟩)).set 23 (some ⟨.opened, some 9⟩)) = [2, 1, 0, 0, 0, 0, 1] := by decide +kernel

theorem witness_RestoreScanTaken : State.reset.scan = .at 0 ∧ (scanning .neverWritten).scan = .at 23 ∧
    (1 : SlotNo).val = (0 : SlotNo).val + 1 ∧ (23 : SlotNo).val = 23 ∧ ((scanning .neverWritten).slot 23).state = .empty ∧
    byteAt notAuto 3 / 2 % 2 = 0 ∧ byteAt img9 3 / 2 % 2 = 1 ∧ rampArg (unbound.get 0) = none ∧
    rampArg (img9.get 0) = some 9 ∧ structureOk 9 badImg = false ∧
    (settlePlan 9 autoOpen).plan.layout.autoOpen = true ∧ (settlePlan 9 img9).plan.layout.autoOpen = false ∧
    structureOk 9 autoOpen = true ∧
    (scanning ⟨autoOpen, true, .valid, false⟩).conflicts 9 (settlePlan 9 autoOpen).plan.layout.claims = false ∧
    (scanning ⟨autoOpen, true, .valid, false⟩).permit = true := by decide +kernel

/-- The restorable plan with a warning time of 0, which opens into START-RED. -/
theorem witness_RestoreScanTaken_opened : (settlePlan 9 autoOpen).plan.timing.warn ≠ 0 ∧
    (settlePlan 9 ((autoOpen.set 18 0).set 19 0)).plan.timing.warn = 0 ∧
    reaches (exec .restoreScanSlot (scanning ⟨autoOpen, true, .valid, false⟩)) (fun t =>
      decide ((t.ramp 9).sub = some .warn) && decide ((t.chan 32).refs = [(.ramp 9, .entry)]) &&
        decide ((t.ramp 9).applied = 1200)) = true := by decide +kernel

/-! ### LOOKUP, notices, links -/

theorem witness_LookupsAnswered : up.takes .loc ∧ rampArg 15 = some 15 ∧ rampArg 16 = none ∧ chanArg 63 = some 63 ∧
    chanArg 64 = none ∧ zoneArg 5 = some 5 ∧ zoneArg 6 = none ∧ linkArg 1 = some .centre ∧ linkArg 2 = none :=
  ⟨takes_up _, by decide⟩

/-- A few results byte by byte: an override of 300 veh/h until ended by the centre, zone 2's evaluated record, a slot in the directory's
form, and the pending amendment of a ramp with no plan. -/
theorem test_lookup_bytes : (⟨300, none, .centre, 0⟩ : Override).bytes = [1, 44, 0, 0, 1] ∧
    ({ zoneRecord2 with members := [(3, 4)], amendment := some ⟨none, some 255, none, [], [(9, 3)]⟩ } : Zone).bytes =
      [byteOf zoneRecord2.state.pos, byteOf (authorityPos zoneRecord2.owner)] ++
        countedBytes (zoneRecord2.detectors.map fun c => [byteOf c.val]) ++ twoBytes zoneRecord2.oc ++ [byteOf zoneRecord2.gz] ++
        twoBytes zoneRecord2.rmax ++ [1, 3, 4] ++ twoBytes zoneRecord2.r ++ [firstOf zoneRecord2.unable] ++
        (zoneRecord2.oz.map twoBytes).getD [255, 255] ++ (zoneRecord2.lastEval.map twoBytes).getD [255, 255] ++
        [1, 255, 255, 255, 255, 255, 0, 1, 9, 3] ∧
    (up.channelSummary 0 = [0]) ∧ up.bulletinBytes 2 = [0] ∧ Ramp.vacantRecord.planBytes = [0, 0] := by decide +kernel

theorem witness_NoticesCleared_NoticesQueriedAndMasked : State.reset.takes .loc ∧ kindArg 11 = some .restore ∧
    kindArg 12 = none ∧ kindArg 0 = none ∧ (12 : Byte) ≠ 0xFF ∧
    ((0 : Byte).toNat < NoticeKind.restore.subjects ∧ NoticeKind.restore.subjects ≤ (1 : Byte).toNat) ∧
    allArgs kindArg [1, 11] = some [.lockout, .restore] ∧ allArgs kindArg [1, 12] = none ∧
    11 < (List.replicate 12 (1 : Byte)).length :=
  ⟨And.intro rfl rfl, by decide⟩

/-- The local set after reset holds a PERMIT notice: the line is low while the kind is masked, and follows a mask and a clear. -/
def shown : State := { State.reset with loc := { State.reset.loc with unmasked := Table.fill 11 true } }

theorem witness_NoticesQueriedAndMasked_line : State.reset.noticeLine = false ∧ shown.noticeLine = true ∧ shown.takes .loc ∧
    kindArg 2 = some .permit ∧ (0 : Byte).toNat < NoticeKind.permit.subjects ∧
    reaches (exec (.noticeMask .loc [2]) State.reset) (·.noticeLine) = true ∧
    reaches (exec (.noticeMask .loc []) shown) (!·.noticeLine) = true ∧
    reaches (exec (.noticeClear .loc 2 0) shown) (!·.noticeLine) = true ∧
    reaches (exec (.noticeClear .centre 2 0) shown) (·.noticeLine) = true :=
  ⟨by decide +kernel, by decide +kernel, And.intro rfl rfl, by decide +kernel⟩

/-- A transition to PARKED sends its stopped cause: COMMAND, PERMIT or CLOSED. -/
theorem test_parked_causes : (Detail.rampState .parked .close).bytes = [1, 0] ∧
    (Detail.rampState .parked .permitLost).bytes = [1, 1] ∧ (Detail.rampState .parked .closingEnded).bytes = [1, 2] := by
  decide +kernel

/-- NOTICE QUERY with no unmasked record, and with two: the mask hides the first of three. -/
theorem witness_NoticesQueriedAndMasked_query :
    let set : List Notice := [⟨.permit, 0, false, true, .none⟩, ⟨.flush, 2, false, true, .none⟩, ⟨.flush, 7, true, false, .none⟩]
    ({ up.loc with set := set } : LinkCtx).queryBytes = [0] ∧
    ({ up.loc with set := set, unmasked := (Table.fill 11 true).set 1 false } : LinkCtx).queryBytes =
      [2, BitVec.ofNat 8 NoticeKind.flush.priority, 2, Config.markByte false, Config.markByte true, 0] := by
  refine ⟨by decide +kernel, rfl⟩

theorem witness_LinkEventsTaken_BytesTaken : up.takes .loc ∧ up.takes .centre ∧
    (answeredRestart.link .loc).busy = true ∧
    (({ up with loc := { up.loc with rx := .void, gap := 2 } } : State).link .loc).rx ≠ .absent ∧
    (up.link .loc).rx = .absent ∧
    (({ up with loc := { up.loc with rx := .assembling [2, 0x15], linkState := .receiving } } : State).link .loc).rx =
      .assembling (2 :: [0x15]) ∧ [(0x15 : Byte)].length + 1 < (2 : Byte).toNat + 2 ∧
    (2 ≤ (250 : Byte).toNat ∧ (250 : Byte).toNat ≤ 250 ∧ 250 < (251 : Byte).toNat) :=
  ⟨takes_up _, takes_up _, by decide⟩

/-- The local link with a frame of this payload short of its last byte, in a state, with the check's first byte `hi`. -/
def almost (st : LinkState) (payload : List Byte) (hi : Byte) : State :=
  { up with loc := { up.loc with
    linkState := st, rx := .assembling (BitVec.ofNat 8 payload.length :: payload ++ [hi]) } }

/-- The byte that completes the check: a busy link, a failing check, an unknown code, a group out of range, a command. -/
theorem witness_BytesTaken_complete : ((almost .executing [0x15, 9] 0).link .loc).busy = true ∧
    ((almost .receiving [0x15, 9] 0).link .loc).busy = false ∧ crc16 [2, 0x15, 9] ≠ wordOf 0 0 ∧
    crc16 [3, 0x10, 11, 0] =
      wordOf ((crc16 [3, 0x10, 11, 0]).extractLsb' 8 8) ((crc16 [3, 0x10, 11, 0]).extractLsb' 0 8) ∧
    decodePayload .loc [0x99, 1] = .badShape ∧ 10 < (11 : Byte).toNat ∧
    decodePayload .loc [0x15, 9] = .command (.openRamp .loc 9) := by decide +kernel

/-! ### Detectors, proving, supervision, PERMIT -/

/-- Channel 32 sampled as ENTRY, with a record. -/
def sampled (f : Channel → Channel) : State :=
  up.modChan 32 fun c => f { c with sampling := some .entry, health := .good }

theorem witness_PresencesTaken : (up.chan 32).pin = false ∧ (up.chan 32).sampling = none ∧
    ((sampled id).chan 32).sampling = some .entry ∧ 1 < ((sampled id).settings.of .entry).debounce ∧
    (((sampled fun c => { c with presence := true, contOn := 4 }).chan 32).presence = true ∧
      (up.settings.of .entry).debounce ≤ 4 ∧ (up.settings.of .mainline).debounce ≤ 4) ∧
    ((up.settings.of .entry).maxOn * 100 ≤ 6000) ∧
    ((rec9 .metering none).entryChan = some 32 ∧ ({ rec9 .metering none with hold := false } : Ramp).hold = false) ∧
    (((sampled fun c => { c with pin := true, presence := true, contOn := 3 }).chan 32).pin = true ∧
      3 < (up.settings.of .entry).debounce ∧ 3 < (up.settings.of .entry).maxOn * 100) := by decide +kernel

/-- Channel 34, lane 1's demand channel of METERING ramp 9, with both lanes READY and held GOOD, and a record. -/
def demanded (f : Channel → Channel) : State :=
  (heads2 .metering none { cyc .ready 60 35 with demandHealth := some .good }
    { cyc .ready 60 35 with demandHealth := some .good }).modChan 34 fun c => f { c with sampling := some .demand, health := .good }

/-- The reports: a qualification by kind, the flush exit that a passage brings, and each end of a presence. -/
theorem witness_PresencesTaken_reports :
    ((rec9 .metering none).passageChan 0 = some 35 ∧ (rec9 .metering none).passageChan 1 = none ∧
      (0 : LaneNo) ∈ (rec9 .metering none).lanes ∧
      ({ rec9 .flushing none with held := [(35, .good)], hold := false } : Ramp).heldHealth 35 = .good ∧
      p9.queue.flushHold * 100 ≤ 2000 ∧ 41 - 1 ≤ p9.queue.target ∧ ¬ 42 - 1 ≤ p9.queue.target) ∧
    ((rec9 .metering none).queueEndChan = some 33 ∧
      ({ rec9 .metering none with held := [(33, .good)] } : Ramp).queueEndReported true ≠
        { rec9 .metering none with held := [(33, .good)], qeOn := true, contOff := 7 }) ∧
    (headLane 27 ∈ (rec9 .metering none).lanes ∧ (rec9 .metering none).demandChan (headLane 27) = some 34 ∧
      (rec9 .metering none).callsOn 34 = true ∧
      reaches (exec (.presenceQualified 34) (demanded fun c => { c with presence := true, contOn := 4 }))
        (fun t => decide ((t.head 27).cycle = .green) && decide ((t.head 28).cycle = .ready)) = true) ∧
    (((demanded fun c => { c with pin := true, presence := true, qualified := true, contOn := 9 }).chan 34).qualified = true ∧
      9 < (up.settings.of .demand).maxOn * 100) ∧
    (((sampled fun c => { c with pin := true, presence := true, inProgress := true }).chan 32).inProgress = true) ∧
    ((({ up with chans := up.chans.set 32 { up.chan 32 with pin := true } } : State).chan 32).sampling = none) ∧
    (({ up with settings := { up.settings with kinds := Table.fill 5 ⟨1, 60, 30, 20⟩ } } : State).settings.of .entry).debounce
      ≤ 1 := by decide +kernel

/-- The settings with the window source LINE. -/
def lineSettings : Settings := { Settings.default with source := .line }

theorem witness_WindowsClose : up.resetHeld = false ∧
    (({ up with elapsed := 2000 } : State).settings.source = .internal ∧ up.settings.length * 100 ≤ 2000) ∧
    ¬ (up.settings.length * 100 ≤ 1999) ∧
    (({ up with settings := lineSettings, elapsed := 500 } : State).settings.source = .line ∧ 500 ≤ 500) ∧
    min 9001 9000 = 9000 ∧ (up.settings.source ≠ .line) := by decide

/-- Channels 34 and 36, both demand channels of ramp 9's READY lanes, at a close that finds them SUSPECT: they return to GOOD. A
channel that fails, one that returns, one released and one of changed kind. -/
def closing : State :=
  let ch : Channel := { Channel.resetRecord with
    refs := [(.ramp 9, .demand)], sampling := some .demand, health := .good, counted := 1, silentRun := 9 }
  { heads2 .metering none { cyc .ready 60 35 with demandHealth := some .good }
      { cyc .ready 60 35 with demandHealth := some .good } with
    elapsed := 2000
    chans := ((((((up.chans.set 34 { ch with faults := ⟨true, false, false⟩ }).set 36
      { ch with faults := ⟨true, false, false⟩ }).set 1 { ch with health := .suspect, healthCount := 2, faults := ⟨true, false, false⟩ }).set
      2 { ch with health := .failed, healthCount := 9 }).set 3 { ch with health := .failed, refs := [] }).set
      4 { ch with health := .failed, sampling := some .entry }).set 5 { ch with refsChanged := true } }

/-- Two lanes that come to be called in the close's event, by their demand channels turning SUSPECT: the lowest goes GREEN. -/
theorem test_close_releases_the_lowest_lane : reaches (exec .windowTimerExpiry closing) (fun t =>
    decide ((t.head 27).cycle = .green) && decide ((t.head 28).cycle = .ready) &&
      decide ((t.head 27).demandHealth = some .suspect) && decide ((t.head 28).demandHealth = some .suspect)) = true := by
  decide +kernel

theorem witness_WindowsClose_channels :
    ((closing.chan 1).kind = some .demand ∧ (closing.chan 1).health ≠ .failed ∧
      (((closing.chan 1).finalChecks (up.settings.of .demand)).moveHealth up.settings).health = .failed) ∧
    ((closing.chan 2).health = .failed ∧
      (((closing.chan 2).finalChecks (up.settings.of .demand)).moveHealth up.settings).health = .good) ∧
    ((closing.chan 3).sampling ≠ none ∧ (closing.chan 3).kind = none) ∧
    ((closing.chan 4).kind = some .demand ∧ (closing.chan 4).sampling ≠ some .demand) ∧
    ((closing.chan 5).refsChanged = true ∧ (closing.chan 0).kind = none ∧ (closing.chan 0).sampling = none) ∧
    (34, Health.disabled) ∈ (closing.ramp 9).held := by decide +kernel

/-- The rows of R51's table, in their order: not sampled, released, of changed kind, settling, clean and GOOD, and two others: a fault
seen, and no fault on the way back from FAILED. -/
theorem witness_WindowsClose_entries :
    let ch : Channel := { Channel.resetRecord with
      refs := [(.ramp 9, .entry)], sampling := some .entry, health := .good, counted := 7, onTime := 600 }
    let e (r : Channel) : SummaryEntry := (r.judged up.settings).entry 2000
    e { ch with sampling := none } = ⟨0, 0, .disabled, .empty⟩ ∧
    e { ch with refs := [], faults := ⟨true, false, false⟩ } = ⟨300, 7, .disabled, ⟨true, false, false⟩⟩ ∧
    e { ch with sampling := some .passage } = ⟨300, 7, .settling, .empty⟩ ∧
    e { ch with health := .settling, faults := ⟨false, false, true⟩ } = ⟨300, 7, .settling, ⟨false, false, true⟩⟩ ∧
    e { ch with onTime := 2001 } = ⟨1000, 7, .valid, .empty⟩ ∧
    e { ch with counted := 0, silentRun := 44 } = ⟨300, 0, .faulty, ⟨false, true, false⟩⟩ ∧
    e { ch with health := .failed, healthCount := 3 } = ⟨300, 7, .faulty, .empty⟩ := by decide +kernel

/-- A close with zone 2 IDLE over an occupied channel, its amendment pending with ramp 9 as an addition, zone 4 DEGRADED with no VALID
detector, and the rest VACANT. -/
def closingZones : State :=
  let z : Zone := { zoneRecord2 with detectors := [5], oc := 50, members := [], r := 0, state := .idle }
  ((closing.setZone 2 { z with amendment := some ⟨none, some 255, some 100, [], [(9, 3)]⟩ }).setZone 4
    { z with state := .degraded, detectors := [0] }).modChan 5 fun c => { c with onTime := 2000 }

/-- Zone 2 takes its amendment and restricts by it; zone 4 stays DEGRADED and zone 0 VACANT. -/
theorem witness_WindowsClose_zones : (closingZones.zone 0).state = .vacant ∧ (closingZones.zone 2).state ≠ .vacant ∧
    (closingZones.zone 2).additions.map (·.1) = [9] ∧ (closingZones.ramp 9).joined = [] ∧
    reaches (exec .windowTimerExpiry closingZones) (fun t => decide ((t.ramp 9).joined = [2]) &&
      decide (t.zone 2 = { closingZones.zone 2 with
        state := .restricting, rmax := 100, gz := 255, members := [(9, 3)], r := 100, unable := false, oz := some 1000
        lastEval := some 0, amendment := none }) &&
      decide ((t.zone 4).state = .degraded ∧ (t.zone 4).unable = false ∧ (closingZones.zone 4).unable = false) &&
      decide (t.zone 0 = closingZones.zone 0)) = true := by decide +kernel

theorem witness_HealthMoves : ((up.chan 32).sampling = none) ∧
    (({ (sampled id).chan 32 with refs := [(.ramp 9, .entry)] } : Channel).kind = some .entry) ∧
    (up.settings.persistence ≤ 2 + 1 ∧ ¬ up.settings.persistence ≤ 1 + 1) ∧
    (up.settings.recovery ≤ 9 + 1 ∧ ¬ up.settings.recovery ≤ 8 + 1) ∧
    (⟨true, false, false⟩ : FaultSet) ≠ .empty := by decide +kernel

/-- A DARK head with its green proved, for the tolerance. -/
def conflict : Head := { cyc .dark 60 35 with greenProved := true, mismatch := 30 }
/-- A GREEN head with nothing proved, for the tolerance. -/
def greenOut : Head := { cyc .green 10 35 with mismatch := 30 }

/-- METERING ramp 9 with both heads RED, nothing proved, both faults due: the first taken locks the ramp out, the second is held and
dropped under DARK; and the head of a VACANT ramp with its green proved. -/
def bothDue : State :=
  heads2 .metering none { redOut with due := some .redOut } { redOut with due := some .redOut }
def vacantDue : State := up.setHead 0 { conflict with due := some .greenConflict }

theorem witness_ProvingTaken_due : bothDue.faultDue 27 = some .redOut ∧
    reaches (exec (.provingFaultDeclared 27) bothDue) (fun t => decide ((t.ramp 9).state = .lockout) &&
      decide (t.faultDue 28 = some .redOut)) = true ∧
    (vacantDue.faultDue 0 = some .greenConflict ∧ (vacantDue.ramp (headRamp 0)).plan = none ∧
      (vacantDue.ramp (headRamp 0)).state = .vacant) := by decide +kernel

theorem witness_ProvingTaken : redOut.shown = some .redOut ∧ conflict.shown = some .greenConflict ∧
    greenOut.shown = some .greenOut ∧ up.settings.tolerance ≤ redOut.mismatch ∧
    ¬ (redOut.standing = true ∧ redOut.lastFault = some .redOut) ∧ (headRamp 27 = 9 ∧ headLane 27 ∈ p9.laneList) ∧
    headLane 29 ∉ p9.laneList ∧ (rec9 .metering none).running = true ∧ (rec9 .metering none).plan = some p9 ∧
    (rec9 .lockout none).state = .lockout ∧ (rec9 .parked none).state = .parked := by decide +kernel

/-- A LOCKOUT out of FLUSHING takes the live flag off the FLUSH notice, and a mark that stands on the other lane off its LAMP notice. -/
theorem witness_ProvingTaken_live :
    let set : List Notice := [⟨.flush, 9, false, true, .none⟩, ⟨.lamp, 28, false, true, .none⟩]
    let s : State := heads2 .flushing none redOut { cyc .green 5 35 with standing := true, lastFault := some .greenOut }
    reaches (exec (.provingFaultDeclared 27) { s with loc := { s.loc with set := set } }) (fun t =>
      decide ((t.ramp 9).state = .lockout) && decide ((t.head 28).standing = false) && decide ((t.head 28).sinceEnd = 0) &&
        decide (t.loc.set = [⟨.lockout, 9, false, false, .lockout .lockout .provingFault 27 .redOut⟩,
          ⟨.flush, 9, false, false, .none⟩, ⟨.lamp, 28, false, false, .none⟩])) = true ∧
    reaches (exec .permitLoss { s with loc := { s.loc with set := set } }) (fun t =>
      t.loc.set.all fun r => !(decide (r.kind = .flush) && r.live)) = true := by decide +kernel

/-- A standing mark falls, with the live flag of its LAMP notice, as the inputs prove the head; a new class restarts its timer. -/
theorem witness_ProvingTaken_inputs :
    let s : State := lane up 0 { redOut with standing := true, lastFault := some .redOut }
    let t : State := { s with loc := { s.loc with set := [⟨.lamp, 27, false, true, .none⟩] } }
    reaches (exec (.provingInputChange 27 true false) t) (fun u =>
      decide (u.loc.set = [⟨.lamp, 27, false, false, .none⟩] ∧ (u.head 27).standing = false ∧ (u.head 27).mismatch = 0)) = true ∧
    reaches (exec (.provingInputChange 27 false true) t) (fun u =>
      decide (u.loc.set = t.loc.set ∧ (u.head 27).standing = true ∧ (u.head 27).mismatch = 0)) = true := by decide +kernel

/-- The centre link SUPERVISED with its timer at its time. -/
def overdue : State := { up with centre := { up.centre with supervised := true, supTimer := 90 } }

theorem witness_SupervisionLapses : (overdue.link .centre).supervised = true ∧ 0 < (overdue.link .centre).supTime ∧
    (overdue.link .centre).supTime ≤ (overdue.link .centre).supTimer ∧
    ¬ ((overdue.link .loc).supervised = true ∧ 0 < (overdue.link .loc).supTime ∧
      (overdue.link .loc).supTime ≤ (overdue.link .loc).supTimer) := by decide

theorem witness_PermitLossAndReturn : (on (rec9 .metering none)).permit = true ∧
    ((on (rec9 .metering none)).ramp 9).running = true ∧ ((on (rec9 .metering none)).ramp 9).retirePending = false ∧
    ((on { rec9 .closing (some .green) with retirePending := true }).ramp 9).running = true ∧
    ((on { rec9 .closing (some .green) with retirePending := true }).ramp 9).retirePending = true ∧
    ((on (rec9 .metering none)).ramp 0).running = false ∧ State.reset.permit = false := by decide +kernel

end Sys2Proof.Tests
end

section
/-! While RESET is held: no frame is taken, no block acts, and only the input lines move (R1, R118, R135, R147, log 22). -/

namespace Sys2Proof.Machine

/-- No block took part: nothing but the lines PERMIT and TAKEOVER and the inputs themselves differs (log 22). -/
structure LinesOnly (s t : State) : Prop where
  rest : t = { s with permit := t.permit, takeover := t.takeover, chans := t.chans, heads := t.heads }
  chans : ∀ c, t.chan c = { s.chan c with pin := (t.chan c).pin }
  heads : ∀ h, t.head h = { s.head h with redPin := (t.head h).redPin, greenPin := (t.head h).greenPin }

theorem LinesOnly.of_eq {s t : State} (e : t = s) : LinesOnly s t := by
  subst e
  constructor <;> intros <;> rfl

theorem LinesOnly.count {s t : State} (h : LinesOnly s t) : t.count = s.count := by rw [h.rest]

theorem State.frame_held {s : State} {l : Link} {code : Byte} {run : State → State × Reply} (h : s.resetHeld = true) :
    s.frame l code run = s := by
  simp [State.frame, h]

theorem linesOnly_pin (s : State) (c : Chan) (pin : Bool) : LinesOnly s (s.modChan c fun r => { r with pin := pin }) where
  rest := rfl
  chans x := by
    rw [State.chan_modChan]
    split
    · next e => subst e; rfl
    · rfl
  heads _ := rfl

theorem presenceOnset_linesOnly {s : State} (h : s.resetHeld = true) (c : Chan) : LinesOnly s (s.presenceOnset c) := by
  unfold State.presenceOnset
  rw [if_pos h]
  split
  · exact .of_eq rfl
  · exact linesOnly_pin s c true

theorem presenceEnd_linesOnly {s : State} (h : s.resetHeld = true) (c : Chan) : LinesOnly s (s.presenceEnd c) := by
  unfold State.presenceEnd
  rw [if_pos h]
  split
  · exact .of_eq rfl
  · exact linesOnly_pin s c false

theorem provingInputs_linesOnly {s : State} (held : s.resetHeld = true) (h : HeadNo) (red green : Bool) :
    LinesOnly s (s.provingInputs h red green) := by
  unfold State.provingInputs
  simp only [if_pos held]
  refine ⟨rfl, fun _ => rfl, fun g => ?_⟩
  rw [State.head_setHead]
  split
  · next e => subst e; rfl
  · rfl

/-- Every row but RESET RELEASE moves the lines and inputs alone while RESET is held: a command's frame is not taken, an event of
a block is not taken, and the rows of the inputs move no reading. -/
theorem exec_held {s : State} (h : s.resetHeld = true) {i : Instr} (ne : i ≠ .resetRelease) :
    ∃ t, exec i s = .next t ∧ LinesOnly s t := by
  cases i
  case resetRelease => exact absurd rfl ne
  case hardReset => exact ⟨_, rfl, .of_eq (if_pos h)⟩
  case byteReceived => exact ⟨s, if_pos h, .of_eq rfl⟩
  case takeoverAssert | takeoverWithdraw => exact ⟨_, rfl, rfl, fun _ => rfl, fun _ => rfl⟩
  case permitLoss | permitReturn => exact ⟨_, congrArg Host.Outcome.next (if_pos h), rfl, fun _ => rfl, fun _ => rfl⟩
  case presenceOnset c => exact ⟨_, rfl, presenceOnset_linesOnly h c⟩
  case presenceEnd c => exact ⟨_, rfl, presenceEnd_linesOnly h c⟩
  case provingInputChange g red green => exact ⟨_, rfl, provingInputs_linesOnly h g red green⟩
  case frameCheckFailure | frameOverrun | receiveGapTimeout | responseSent | presenceQualified | stuckOn |
      windowTimerExpiry | syncEdge | windowSelfClose | bulletinArrival | warnTimerExpiry | startRedExpiry | queueAlarm |
      flushHoldReached | laneReady | spacingExpiry | greenEnd | settleComplete | closeGreenEnd | emptyJudgement |
      provingFaultDeclared | overrideExpiry | supervisionLapse | restoreScanSlot | storeCompletion =>
    exact ⟨_, rfl, .of_eq (State.running_held h)⟩
  all_goals exact ⟨_, rfl, .of_eq (State.frame_held h)⟩

theorem step_held_idle {s : State} (h : s.resetHeld = true) (e : s.pending = []) : step s = .next s := by
  simp [step, e, idle, h]

end Sys2Proof.Machine
end

section
/-! RESET RELEASE and the end of a RESTART's response: what the resets do to the count, the inputs, the scan and the PERMIT
notice (R1, R40, R60, R146, R161). -/

namespace Sys2Proof.Machine

theorem State.permitNotice_onlyLinks (s : State) : OnlyLinks s s.permitNotice := by
  unfold State.permitNotice
  split
  · exact OnlyLinks.refl s
  · exact State.raise_onlyLinks s _ _ _ _

theorem State.permitNotice_setsOnly (s : State) : SetsOnly s s.permitNotice := by
  unfold State.permitNotice
  split
  · exact SetsOnly.refl s
  · exact State.raise_setsOnly s _ _ _ _

theorem State.set_permitNotice (s : State) (l : Link) : (s.permitNotice.link l).set =
    if s.permit = true then (s.link l).set else raiseInto .permit 0 .none true (s.link l).set := by
  unfold State.permitNotice
  split
  · rfl
  · rw [State.link_raise]

theorem State.chan_readInputs (s : State) (c : Chan) :
    s.readInputs.chan c = { s.chan c with presence := (s.chan c).pin } := Table.get_map _ _ _

theorem State.head_readInputs (s : State) (h : HeadNo) :
    s.readInputs.head h = { s.head h with redProved := (s.head h).redPin, greenProved := (s.head h).greenPin } :=
  Table.get_map _ _ _

/-- The state that a release leaves but for the PERMIT notice: the count at 0, the inputs read, the scan begun. -/
def State.released (s : State) : State := ({ s with resetHeld := false, count := 0 } : State).readInputs.beginScan

theorem State.release_onlyLinks (s : State) : OnlyLinks s.released s.release := s.released.permitNotice_onlyLinks

theorem State.link_released (s : State) (l : Link) : s.released.link l = s.link l := by cases l <;> rfl

theorem State.release_setsOnly (s : State) : SetsOnly s s.release := fun l =>
  s.link_released l ▸ s.released.permitNotice_setsOnly l

theorem State.set_release (s : State) (l : Link) : (s.release.link l).set =
    if s.permit = true then (s.link l).set else raiseInto .permit 0 .none true (s.link l).set :=
  s.link_released l ▸ s.released.set_permitNotice l

theorem State.chan_release (s : State) (c : Chan) :
    s.release.chan c = { s.chan c with presence := (s.chan c).pin } :=
  (congrArg (Table.get · c) s.release_onlyLinks.chans).trans (State.chan_readInputs _ c)

theorem State.head_release (s : State) (h : HeadNo) :
    s.release.head h = { s.head h with redProved := (s.head h).redPin, greenProved := (s.head h).greenPin } :=
  (congrArg (Table.get · h) s.release_onlyLinks.heads).trans (State.head_readInputs _ h)

theorem exec_resetRelease_held {s : State} (h : s.resetHeld = true) : exec .resetRelease s = .next s.release :=
  congrArg Host.Outcome.next (if_pos h)

/-- Settles O13: with RESET held the row is the release, which differs from the state with the count at 0, the inputs read and the
scan begun in the PERMIT notice alone; window 0 stands at its start by the invariant. -/
theorem resetReleased : Obligations.ResetReleased := by
  intro s hg hr
  obtain ⟨hwin, helapsed⟩ := hg.window hr
  have ho := s.release_onlyLinks
  refine ⟨s.release, exec_resetRelease_held hr, ho.resetHeld, ho.count, ho.winNum.trans hwin, ho.elapsed.trans helapsed,
    s.chan_release, s.head_release, ho.scan, fun k => ?_, ho.ramps, ho.zones, ho.slots, ho.stage, ho.store, ho.settings,
    ho.permit, ho.takeover, ho.pending, s.release_setsOnly, fun hp l => ?_, fun hp l => ?_⟩
  · rw [ho.report]
    exact Table.get_fill _ _
  · rw [s.set_release, if_pos hp]
  · rw [s.set_release, if_neg (by simp [hp])]

/-- No row leaves RESET held and moves the count: the rows that act while it is held move the lines alone, and the one that
restarts the count lets the line go (R1). -/
theorem exec_held_count {s t : State} {i : Instr} (h : s.resetHeld = true) (e : exec i s = .next t)
    (ht : t.resetHeld = true) : t.count = s.count := by
  by_cases hi : i = .resetRelease
  · subst hi
    obtain rfl : s.release = t := Host.Outcome.next.inj ((exec_resetRelease_held h).symm.trans e)
    cases ht.symm.trans s.release_onlyLinks.resetHeld
  · obtain ⟨u, hu, lines⟩ := exec_held h hi
    obtain rfl : u = t := Host.Outcome.next.inj (hu.symm.trans e)
    exact lines.count

theorem step_held_count {s t : State} (h : s.resetHeld = true) (e : step s = .next t) (ht : t.resetHeld = true) :
    t.count = s.count := by
  cases hq : s.pending with
  | nil =>
    rw [step_held_idle h hq] at e
    cases e
    rfl
  | cons c rest =>
    have hx : exec c { s with pending := rest } = .next t := by simpa [step, hq] using e
    exact exec_held_count (s := { s with pending := rest }) h hx ht

theorem State.scanAfterRestart_count (s : State) : s.scanAfterRestart.count = s.count := by
  unfold State.scanAfterRestart
  split <;> rfl

theorem State.restart_count (s : State) : s.restart.count = s.count :=
  (State.permitNotice_onlyLinks _).count.trans (State.scanAfterRestart_count _)

/-- The end of the response to a RESTART on the local link takes the RESTART (R146). -/
theorem exec_responseSent_restart {s : State} (h : s.resetHeld = false) (hl : s.loc.linkState = .replying)
    (hp : s.restartPending = true) : exec (.responseSent .loc) s = .next s.restart := by
  have hs : s.responseSent .loc = s.restart := by simp [State.responseSent, State.link, hl, hp]
  exact congrArg Host.Outcome.next ((State.running_up h).trans hs)

end Sys2Proof.Machine
end

section
/-! What a centisecond does, record by record (R1): the lamps read, the timers of the count and of its ticks advanced, the
declarations held. -/

namespace Sys2Proof.Machine

/-! ### The reading of the lamps (R118, R119, R150) -/

/-- A head read again shows what it showed: with a mismatch nothing moves, without one the timer and the standing mark clear. -/
theorem Head.reprove_self (h : Head) : h.reprove h =
    { h with mismatch := if h.shown = none then 0 else h.mismatch, standing := h.standing && h.shown.isSome } := by
  unfold Head.reprove
  cases hs : h.shown <;> simp

theorem State.set_reread (s : State) (h : HeadNo) (l : Link) : ((s.writeHead h (s.head h)).link l).set =
    if (s.head h).standing = true ∧ (s.head h).shown = none then liveClearIn .lamp h.val (s.link l).set
    else (s.link l).set := by
  have clears : ((s.head h).standing = true ∧ ¬ ((s.head h).reprove (s.head h)).standing = true) ↔
      ((s.head h).standing = true ∧ (s.head h).shown = none) := by
    rw [Head.reprove_self]
    cases (s.head h).shown <;> simp
  unfold State.writeHead
  simp only [clears]
  split
  · rw [State.link_liveClear, State.setHead_link]
  · rw [State.setHead_link]

/-- A record of the pending sets once the heads of a list are read: its live flag falls with the standing mark of its head. -/
def State.dimmed (s : State) (hs : List HeadNo) (r : Notice) : Notice :=
  if ∃ h ∈ hs, r.kind = .lamp ∧ r.subject = h.val ∧ (s.head h).standing = true ∧ (s.head h).shown = none then
    { r with live := false }
  else r

theorem State.dimmed_fallen (s : State) (hs : List HeadNo) (r : Notice) :
    s.dimmed hs { r with live := false } = { r with live := false } := ite_self _

theorem State.dimmed_congr {s u : State} {hs : List HeadNo} (e : ∀ h ∈ hs, u.head h = s.head h) :
    u.dimmed hs = s.dimmed hs := by
  funext r
  have : (∃ h ∈ hs, r.kind = .lamp ∧ r.subject = h.val ∧ (u.head h).standing = true ∧ (u.head h).shown = none) ↔
      ∃ h ∈ hs, r.kind = .lamp ∧ r.subject = h.val ∧ (s.head h).standing = true ∧ (s.head h).shown = none :=
    exists_congr fun h => and_congr_right fun hm => by rw [e h hm]
  simp only [State.dimmed, this]

/-- The head at the front of the list read first: its own LAMP record falls when its mark clears, any other is left to the rest. -/
theorem State.map_dimmed_cons (s : State) (h : HeadNo) (hs : List HeadNo) (set : List Notice) :
    set.map (s.dimmed (h :: hs)) =
      (if (s.head h).standing = true ∧ (s.head h).shown = none then liveClearIn .lamp h.val set else set).map
        (s.dimmed hs) := by
  split
  · next clears =>
    rw [liveClearIn, List.map_map]
    refine List.map_congr_left fun r _ => ?_
    by_cases own : r.kind = .lamp ∧ r.subject = h.val
    · have fallen : s.dimmed (h :: hs) r = { r with live := false } :=
        if_pos ⟨h, List.mem_cons_self, own.1, own.2, clears⟩
      rw [fallen, Function.comp_apply, if_pos own, State.dimmed_fallen]
    · have away : ¬ (r.kind = .lamp ∧ r.subject = h.val ∧ (s.head h).standing = true ∧ (s.head h).shown = none) :=
        fun x => own ⟨x.1, x.2.1⟩
      rw [Function.comp_apply, if_neg own]
      simp only [State.dimmed, List.mem_cons, or_and_right, exists_or, exists_eq_left, away, false_or]
  · next stays =>
    refine List.map_congr_left fun r _ => ?_
    simp only [State.dimmed, List.mem_cons, or_and_right, exists_or, exists_eq_left, stays, and_false, false_or]

theorem State.set_readHeads (hs : List HeadNo) (nd : hs.Nodup) (s : State) (l : Link) :
    ((hs.foldl (fun t h => t.writeHead h (t.head h)) s).link l).set = (s.link l).set.map (s.dimmed hs) := by
  induction hs generalizing s with
  | nil =>
    have keeps : s.dimmed [] = id := funext fun _ => if_neg (by simp)
    rw [keeps, List.map_id, List.foldl_nil]
  | cons h hs ih =>
    obtain ⟨new, nd⟩ := List.nodup_cons.1 nd
    have same : ∀ g ∈ hs, (s.writeHead h (s.head h)).head g = s.head g := fun g hg =>
      State.head_writeHead_other s _ fun e => new (e ▸ hg)
    rw [List.foldl_cons, ih nd, State.dimmed_congr same, State.set_reread, State.map_dimmed_cons]

/-- The reading of the lamps drops the live flag of the LAMP record of every head whose standing mark it clears. -/
theorem State.link_readLamps (s : State) (l : Link) :
    s.readLamps.link l = { s.link l with set := (s.link l).set.map (s.dimmed (List.finRange 48)) } := by
  rw [s.readLamps_rampsOnly.1.sets l]
  exact congrArg (fun set => { s.link l with set := set }) (State.set_readHeads _ (List.nodup_finRange 48) s l)

theorem State.writeHead_form (s : State) (h : HeadNo) (c : Head) :
    ∃ heads loc centre, s.writeHead h c = { s with heads := heads, loc := loc, centre := centre } := by
  unfold State.writeHead
  simp only []
  split <;> exact ⟨_, _, _, rfl⟩

/-- The reading of the lamps moves the heads and the two links alone. -/
theorem State.readLamps_form (s : State) :
    ∃ heads loc centre, s.readLamps = { s with heads := heads, loc := loc, centre := centre } := by
  refine State.eachHead_induct
    (P := fun t => ∃ heads loc centre, t = { s with heads := heads, loc := loc, centre := centre })
    (fun h t ⟨a, b, c, e⟩ => ?_) ⟨s.heads, s.loc, s.centre, rfl⟩
  obtain ⟨heads, loc, centre, w⟩ := t.writeHead_form h (t.head h)
  exact ⟨heads, loc, centre, by rw [w, e]⟩

/-! ### The ticks (R1) -/

/-- What is done at the counts at which a condition holds. -/
def atTick {α : Type} (b : Prop) [Decidable b] (f : α → α) (a : α) : α := if b then f a else a

/-- A part of the state that an operation moves on its own moves at the same counts. -/
theorem atTick_part {α β : Type} (b : Prop) [Decidable b] {f : α → α} {f' : β → β} (g : α → β)
    (h : ∀ a, g (f a) = f' (g a)) (a : α) : g (atTick b f a) = atTick b f' (g a) := by
  unfold atTick
  split
  · exact h a
  · rfl

theorem atTick_same {α β : Type} (b : Prop) [Decidable b] {f : α → α} (g : α → β) (h : ∀ a, g (f a) = g a) (a : α) :
    g (atTick b f a) = g a := by
  unfold atTick
  split
  · exact h a
  · rfl

section parts
variable (b : Prop) [Decidable b] (s : State)

theorem State.chan_atTickDs (c : Chan) : (atTick b State.tickDs s).chan c = s.chan c :=
  atTick_same b (f := State.tickDs) (fun t => t.chan c) (fun _ => rfl) s
theorem State.ramp_atTickDs (n : RampNo) : (atTick b State.tickDs s).ramp n = atTick b Ramp.tickDs (s.ramp n) :=
  atTick_part b (f := State.tickDs) (fun t => t.ramp n) (fun _ => Table.get_map _ _ _) s
theorem State.head_atTickDs (h : HeadNo) : (atTick b State.tickDs s).head h = atTick b Head.tickDs (s.head h) :=
  atTick_part b (f := State.tickDs) (fun t => t.head h) (fun _ => Table.get_map _ _ _) s
theorem State.link_atTickDs (l : Link) : (atTick b State.tickDs s).link l = s.link l :=
  atTick_same b (f := State.tickDs) (fun t => t.link l) (fun _ => by cases l <;> rfl) s

theorem State.chan_atTickSecond (c : Chan) : (atTick b State.tickSecond s).chan c = s.chan c :=
  atTick_same b (f := State.tickSecond) (fun t => t.chan c) (fun _ => rfl) s
theorem State.ramp_atTickSecond (n : RampNo) :
    (atTick b State.tickSecond s).ramp n = atTick b Ramp.tickSecond (s.ramp n) :=
  atTick_part b (f := State.tickSecond) (fun t => t.ramp n) (fun _ => Table.get_map _ _ _) s
theorem State.head_atTickSecond (h : HeadNo) : (atTick b State.tickSecond s).head h = s.head h :=
  atTick_same b (f := State.tickSecond) (fun t => t.head h) (fun _ => rfl) s
theorem State.link_atTickSecond (l : Link) :
    (atTick b State.tickSecond s).link l = atTick b LinkCtx.tickSecond (s.link l) :=
  atTick_part b (f := State.tickSecond) (fun t => t.link l) (fun _ => by cases l <;> rfl) s

end parts

/-- The state of the centisecond before its decisecond and second ticks: the lamps read, the timers of the count advanced, the
declarations held. -/
def State.counted (s : State) : State := s.readLamps.tickCs.markDue

theorem State.counted_count (s : State) : s.counted.count = s.count + 1 :=
  congrArg (· + 1) s.readLamps_rampsOnly.1.count

theorem State.chan_tickCs (s : State) (c : Chan) : s.tickCs.chan c = (s.chan c).read := Table.get_map _ _ _
theorem State.ramp_tickCs (s : State) (n : RampNo) : s.tickCs.ramp n = (s.ramp n).tickCs := Table.get_map _ _ _
theorem State.head_tickCs (s : State) (h : HeadNo) : s.tickCs.head h = (s.head h).tickCs := Table.get_map _ _ _
theorem State.link_tickCs (s : State) (l : Link) : s.tickCs.link l = (s.link l).tickCs := by cases l <;> rfl
theorem State.head_markDue (s : State) (h : HeadNo) : s.markDue.head h = (s.head h).markDue s.settings.tolerance :=
  Table.get_map _ _ _
theorem State.link_markDue (s : State) (l : Link) : s.markDue.link l = s.link l := by cases l <;> rfl

theorem State.chan_markDue (s : State) (c : Chan) : s.markDue.chan c = s.chan c := rfl
theorem State.ramp_markDue (s : State) (n : RampNo) : s.markDue.ramp n = s.ramp n := rfl
theorem State.tickCs_settings (s : State) : s.tickCs.settings = s.settings := rfl

theorem State.chan_readLamps (s : State) (c : Chan) : s.readLamps.chan c = s.chan c :=
  congrArg (Table.get · c) s.readLamps_rampsOnly.1.chans
theorem State.ramp_readLamps (s : State) (n : RampNo) : s.readLamps.ramp n = s.ramp n :=
  congrArg (Table.get · n) s.readLamps_rampsOnly.2

theorem State.chan_counted (s : State) (c : Chan) : s.counted.chan c = (s.chan c).read := by
  rw [State.counted, State.chan_markDue, State.chan_tickCs, State.chan_readLamps]

theorem State.ramp_counted (s : State) (n : RampNo) : s.counted.ramp n = (s.ramp n).tickCs := by
  rw [State.counted, State.ramp_markDue, State.ramp_tickCs, State.ramp_readLamps]

theorem State.head_counted (s : State) (h : HeadNo) :
    s.counted.head h = ((s.head h).reprove (s.head h)).tickCs.markDue s.settings.tolerance := by
  rw [State.counted, State.head_markDue, State.head_tickCs, State.head_readLamps, State.tickCs_settings,
    s.readLamps_rampsOnly.1.settings]

theorem State.link_counted (s : State) (l : Link) : s.counted.link l = (s.readLamps.link l).tickCs := by
  rw [State.counted, State.link_markDue, State.link_tickCs]

theorem State.tick_eq (s : State) : s.tick =
    atTick ((s.count + 1) % 100 = 0) State.tickSecond (atTick ((s.count + 1) % 10 = 0) State.tickDs s.counted) := by
  simp only [← s.counted_count]
  rfl

theorem State.tick_form (s : State) : s.tick = { s with
    count := s.count + 1, elapsed := s.elapsed + 1
    chans := s.tick.chans, ramps := s.tick.ramps, heads := s.tick.heads, loc := s.tick.loc, centre := s.tick.centre } := by
  obtain ⟨heads, loc, centre, e⟩ := s.readLamps_form
  rw [s.tick_eq, State.counted, e]
  unfold atTick
  split <;> split <;> rfl

/-! ### Each record through a centisecond -/

theorem State.chan_tick (s : State) (c : Chan) : s.tick.chan c = (s.chan c).read := by
  rw [s.tick_eq, State.chan_atTickSecond, State.chan_atTickDs, s.chan_counted]

theorem State.ramp_tick (s : State) (n : RampNo) : s.tick.ramp n =
    atTick ((s.count + 1) % 100 = 0) Ramp.tickSecond (atTick ((s.count + 1) % 10 = 0) Ramp.tickDs (s.ramp n).tickCs) := by
  rw [s.tick_eq, State.ramp_atTickSecond, State.ramp_atTickDs, s.ramp_counted]

theorem State.head_tick (s : State) (h : HeadNo) : s.tick.head h =
    atTick ((s.count + 1) % 10 = 0) Head.tickDs
      (((s.head h).reprove (s.head h)).tickCs.markDue s.settings.tolerance) := by
  rw [s.tick_eq, State.head_atTickSecond, State.head_atTickDs, s.head_counted]

theorem State.link_tick (s : State) (l : Link) : s.tick.link l =
    atTick ((s.count + 1) % 100 = 0) LinkCtx.tickSecond (s.readLamps.link l).tickCs := by
  rw [s.tick_eq, State.link_atTickSecond, State.link_atTickDs, s.link_counted]

/-! ### The records in the words of the statement -/

theorem Channel.read_eq (r : Channel) : r.read =
    if r.sampling ≠ none ∧ r.presence = true then
      if r.onsetNow = true then { r with onsetNow := false }
      else { r with contOn := min 180000 (r.contOn + 1), onTime := r.onTime + 1 }
    else r := by
  simp only [Channel.read, riseTo, Bool.and_eq_true, Option.isSome_iff_ne_none]

/-- The queue-end timers of a ramp that is not VACANT: the one that the effective presence picks runs (R101). -/
theorem Ramp.tickCs_eq (r : Ramp) : r.tickCs = { r with
    override := r.override.map Override.count
    contOn := if r.state ≠ .vacant ∧ r.effPresence = true then min 12000 (r.contOn + 1) else r.contOn
    contOff := if r.state ≠ .vacant ∧ r.effPresence = false then min 12000 (r.contOff + 1) else r.contOff } := by
  unfold Ramp.tickCs Ramp.timeQueueEnd
  by_cases hv : r.state = .vacant
  · simp [hv]
  · cases he : r.effPresence <;> simp [hv, riseTo]

/-- START-RED and the close green are timed in deciseconds, WARN in seconds (R25, R26, R117). -/
theorem Ramp.ticks_eq (r : Ramp) (ds sec : Prop) [Decidable ds] [Decidable sec] :
    atTick sec Ramp.tickSecond (atTick ds Ramp.tickDs r) = { r with
      subTimer := if r.sub = some .startRed ∧ ds ∨ r.sub = some .warn ∧ sec then r.subTimer + 1 else r.subTimer
      closeTimer := if r.sub = some .green ∧ ds then r.closeTimer + 1 else r.closeTimer } := by
  have hds : atTick ds Ramp.tickDs r = { r with
      subTimer := if r.sub = some .startRed ∧ ds then r.subTimer + 1 else r.subTimer
      closeTimer := if r.sub = some .green ∧ ds then r.closeTimer + 1 else r.closeTimer } := by
    by_cases h : ds <;> simp [atTick, Ramp.tickDs, h]
  rw [hds]
  by_cases hw : r.sub = some .warn
  · by_cases h : sec <;> simp [atTick, Ramp.tickSecond, hw, h]
  · simp [atTick, Ramp.tickSecond, hw]

theorem Head.markDue_eq (h : Head) (tolerance : Nat) : h.markDue tolerance = { h with
    due := if h.shown ≠ none ∧ tolerance ≤ h.mismatch ∧ ¬ (h.standing = true ∧ h.lastFault = h.shown) then h.shown
      else h.due } := by
  unfold Head.markDue Head.declares
  cases hs : h.shown with
  | none => simp
  | some f =>
    by_cases declared : tolerance ≤ h.mismatch ∧ ¬ (h.standing = true ∧ h.lastFault = some f)
    · simp only [if_pos declared, ne_eq, reduceCtorEq, not_false_eq_true, true_and]
    · simp only [if_neg declared, ne_eq, reduceCtorEq, not_false_eq_true, true_and]

/-- A head's reading, its mismatch timer and the declaration that a timer at the tolerance holds (R119). -/
theorem Head.counted_eq (h : Head) (tolerance : Nat) : (h.reprove h).tickCs.markDue tolerance = { h with
    mismatch := if h.shown = none then 0 else min 100 (h.mismatch + 1)
    standing := h.standing && h.shown.isSome
    due :=
      if h.shown ≠ none ∧ tolerance ≤ min 100 (h.mismatch + 1) ∧ ¬ (h.standing = true ∧ h.lastFault = h.shown) then h.shown
      else h.due } := by
  -- A head shows the same whatever its timer and its marks are.
  have shown_eq : ∀ m st, ({ h with mismatch := m, standing := st } : Head).shown = h.shown := fun _ _ => rfl
  rw [Head.markDue_eq, Head.reprove_self, Head.tickCs, shown_eq]
  cases hs : h.shown <;> simp [riseTo, shown_eq, hs]

/-- The head timers and the demand-off time are counted in deciseconds (R104, R111). -/
theorem Head.ticks_eq (h : Head) (ds : Prop) [Decidable ds] : atTick ds Head.tickDs h = { h with
    sinceStart := if ds then min 6000 (h.sinceStart + 1) else h.sinceStart
    sinceEnd := if ds then min 6000 (h.sinceEnd + 1) else h.sinceEnd
    demandOff := if ds ∧ h.demandTimed = true ∧ h.demandOn = false then min 600 (h.demandOff + 1) else h.demandOff } := by
  by_cases hd : ds <;> simp [atTick, Head.tickDs, riseTo, hd]

/-- The gap is timed in centiseconds while a receive frame is there, supervision in seconds (R130, R135). -/
theorem LinkCtx.ticks_eq (c : LinkCtx) (sec : Prop) [Decidable sec] : atTick sec LinkCtx.tickSecond c.tickCs = { c with
    gap := if c.rx = .absent then c.gap else c.gap + 1
    supTimer := if c.supervised = true ∧ sec then min 600 (c.supTimer + 1) else c.supTimer } := by
  have hgap : c.tickCs = { c with gap := if c.rx = .absent then c.gap else c.gap + 1 } := by
    unfold LinkCtx.tickCs
    split <;> rfl
  rw [hgap]
  by_cases hs : sec
  · by_cases hc : c.supervised = true <;> simp [atTick, LinkCtx.tickSecond, riseTo, hs, hc]
  · simp [atTick, hs]

/-- A centisecond moves every record as the Timebase says (R1). -/
theorem State.tick_ticked (s : State) : Ticked s s.tick where
  rest := s.tick_form
  chans c := by rw [s.chan_tick, Channel.read_eq]
  ramps n := by rw [s.ramp_tick, Ramp.ticks_eq, Ramp.tickCs_eq]
  heads h := by rw [s.head_tick, Head.ticks_eq, Head.counted_eq]
  links l := by
    rw [s.link_tick, LinkCtx.ticks_eq, s.link_readLamps]
    congr 1
    refine List.map_congr_left fun r _ => ?_
    simp only [State.dimmed, List.mem_finRange, true_and]

end Sys2Proof.Machine
end

section
/-! The centisecond count. -/

namespace Sys2Proof.Machine

/-- The presence of a queue-end channel counts while its health, as the ramp holds it, is SETTLING, GOOD or SUSPECT (R101). -/
theorem Ramp.effPresence_iff (r : Ramp) : r.effPresence = true ↔
    r.qeOn = true ∧ ∃ c, r.queueEndChan = some c ∧ r.heldHealth c ∈ [Health.settling, .good, .suspect] := by
  unfold Ramp.effPresence
  cases hq : r.queueEndChan with
  | none => simp
  | some c => cases hh : r.heldHealth c <;> simp [hh]

/-- Settles O3: the tick record by record, the effective presence by its cases, and the count through both resets and while RESET
is held. -/
theorem centisecondCount : Obligations.CentisecondCount :=
  ⟨State.tick_ticked, Ramp.effPresence_iff,
    fun s h => ⟨s.release, exec_resetRelease_held h, s.release_onlyLinks.count⟩,
    fun _ h e => step_held_idle h e,
    fun _ _ h e ht => step_held_count h e ht,
    fun s h hl hp => ⟨s.restart, exec_responseSent_restart h hl hp, s.restart_count⟩⟩

end Sys2Proof.Machine
end

section
/-! Which timed row is due, condition by condition (R1, log 1), and what a step with no command waiting takes (log 2). -/

namespace Sys2Proof.Machine

/-! ### Channels and windows (R45, R48, R49, R52) -/

theorem Channel.qualifyDue_iff (r : Channel) (set : Settings) : r.qualifyDue set = true ↔
    ∃ k, r.sampling = some k ∧ r.presence = true ∧ r.qualified = false ∧ r.inProgress = false ∧
      (set.of k).debounce ≤ r.contOn := by
  unfold Channel.qualifyDue
  cases r.sampling <;> simp [and_assoc]

theorem Channel.stuckDue_iff (r : Channel) (set : Settings) : r.stuckDue set = true ↔
    ∃ k, r.sampling = some k ∧ r.presence = true ∧ r.stuck = false ∧ (set.of k).maxOn * 100 ≤ r.contOn := by
  unfold Channel.stuckDue
  cases r.sampling <;> simp [and_assoc]

theorem State.windowTimerDue_iff (s : State) :
    s.windowTimerDue = true ↔ s.settings.source = .internal ∧ s.settings.length * 100 ≤ s.elapsed := by
  simp [State.windowTimerDue]

theorem State.selfCloseDue_iff (s : State) : s.selfCloseDue = true ↔ s.settings.source = .line ∧ 9000 ≤ s.elapsed := by
  simp [State.selfCloseDue]

/-! ### Ramps (R25, R26, R102, R103, R105, R128) -/

theorem Ramp.warnDue_iff (r : Ramp) : r.warnDue = true ↔
    ∃ p, r.plan = some p ∧ r.state = .opening ∧ r.sub = some .warn ∧ p.timing.warn ≤ r.subTimer := by
  unfold Ramp.warnDue
  cases r.plan <;> simp [and_assoc]

theorem Ramp.startRedDue_iff (r : Ramp) : r.startRedDue = true ↔
    ∃ p, r.plan = some p ∧ r.state = .opening ∧ r.sub = some .startRed ∧ p.timing.startRed ≤ r.subTimer := by
  unfold Ramp.startRedDue
  cases r.plan <;> simp [and_assoc]

theorem Ramp.closeGreenDue_iff (r : Ramp) : r.closeGreenDue = true ↔
    ∃ p, r.plan = some p ∧ r.state = .closing ∧ r.sub = some .green ∧ p.timing.closeGreen ≤ r.closeTimer := by
  unfold Ramp.closeGreenDue
  cases r.plan <;> simp [and_assoc]

theorem Ramp.dwellMet_iff (r : Ramp) : r.dwellMet = true ↔
    ∃ p, r.plan = some p ∧ r.effPresence = true ∧ p.queue.dwell * 100 ≤ r.contOn := by
  unfold Ramp.dwellMet
  cases r.plan <;> simp

theorem Ramp.dwellDue_iff (r : Ramp) : r.dwellDue = true ↔
    ∃ p, r.plan = some p ∧ r.state ≠ .vacant ∧ r.effPresence = true ∧ p.queue.dwell * 100 ≤ r.contOn ∧
      r.dwellTaken = false := by
  simp only [Ramp.dwellDue, Bool.and_eq_true, decide_eq_true_eq, Bool.not_eq_true', Ramp.dwellMet_iff]
  constructor
  · rintro ⟨⟨hv, p, hp, he, hd⟩, ht⟩
    exact ⟨p, hp, hv, he, hd, ht⟩
  · rintro ⟨p, hp, hv, he, hd, ht⟩
    exact ⟨⟨hv, p, hp, he, hd⟩, ht⟩

theorem Ramp.flushExitMet_iff_plan (r : Ramp) : r.flushExitMet = true ↔
    ∃ p, r.plan = some p ∧ r.state = .flushing ∧ p.queue.flushHold * 100 ≤ r.contOff ∧ r.q ≤ p.queue.target := by
  unfold Ramp.flushExitMet
  cases r.plan <;> simp [and_assoc]

theorem Ramp.overrideDone_iff (r : Ramp) : r.overrideDone = true ↔
    ∃ o k, r.override = some o ∧ o.remaining = some k ∧ k ≤ 1 ∧ 100 ≤ o.phase := by
  unfold Ramp.overrideDone
  cases r.override with
  | none => simp
  | some o => cases h : o.remaining <;> simp [h]

theorem Ramp.cycling_iff (r : Ramp) : r.cycling = true ↔ r.state = .metering ∨ r.state = .flushing := by
  simp [Ramp.cycling]

theorem Ramp.settling_iff (r : Ramp) : r.settling = true ↔ r.state = .closing ∧ r.sub = some .settle := by
  simp [Ramp.settling]

/-! ### Lanes and judgements (R104, R111 to R116) -/

theorem State.laneReadyDue_iff (s : State) (n : RampNo) (k : LaneNo) : s.laneReadyDue n k = true ↔
    ∃ p, (s.ramp n).plan = some p ∧ k ∈ p.laneList ∧
      ((s.ramp n).state = .metering ∨ (s.ramp n).state = .flushing ∨
        (s.ramp n).state = .closing ∧ (s.ramp n).sub = some .settle) ∧
      (s.head (headOf n k)).cycle = .hold ∧ (s.ramp n).interval k ≤ (s.head (headOf n k)).sinceStart ∧
      p.timing.minRed ≤ (s.head (headOf n k)).sinceEnd := by
  unfold State.laneReadyDue
  cases (s.ramp n).plan with
  | none => simp
  | some p =>
    simp only [Bool.and_eq_true, Bool.or_eq_true, decide_eq_true_eq, Head.ripe, Ramp.cycling_iff, Ramp.settling_iff,
      Option.some.injEq, exists_eq_left', or_assoc, and_assoc]
    exact and_left_comm

theorem State.spacingDue_iff (s : State) (n : RampNo) (k : LaneNo) : s.spacingDue n k = true ↔
    ∃ p, (s.ramp n).plan = some p ∧ k ∈ p.laneList ∧ p.layout.order = .staggered ∧
      ((s.ramp n).state = .metering ∨ (s.ramp n).state = .flushing) ∧ s.releasable n p k = true := by
  unfold State.spacingDue
  cases (s.ramp n).plan with
  | none => simp
  | some p =>
    simp only [Bool.and_eq_true, decide_eq_true_eq, Ramp.cycling_iff, Option.some.injEq, exists_eq_left']
    constructor
    · rintro ⟨⟨⟨hc, ho⟩, hk⟩, hr⟩
      exact ⟨hk, ho, hc, hr⟩
    · rintro ⟨hk, ho, hc, hr⟩
      exact ⟨⟨⟨hc, ho⟩, hk⟩, hr⟩

theorem State.greenEndDue_iff (s : State) (n : RampNo) (k : LaneNo) : s.greenEndDue n k = true ↔
    ∃ p, (s.ramp n).plan = some p ∧ k ∈ p.laneList ∧ (s.head (headOf n k)).cycle = .green ∧
      p.timing.green ≤ (s.head (headOf n k)).sinceStart := by
  unfold State.greenEndDue
  cases (s.ramp n).plan <;> simp [Head.greenRun]

theorem Head.settled_iff (h : Head) (minRed : Nat) :
    h.settled minRed = true ↔ (h.cycle = .hold ∨ h.cycle = .ready) ∧ minRed ≤ h.sinceEnd := by
  simp [Head.settled]

theorem State.settledDue_iff (s : State) (n : RampNo) : s.settledDue n = true ↔
    ∃ p, (s.ramp n).plan = some p ∧ (s.ramp n).state = .closing ∧ (s.ramp n).sub = some .settle ∧
      ∀ k ∈ p.laneList, ((s.head (headOf n k)).cycle = .hold ∨ (s.head (headOf n k)).cycle = .ready) ∧
        p.timing.minRed ≤ (s.head (headOf n k)).sinceEnd := by
  unfold State.settledDue
  cases (s.ramp n).plan with
  | none => simp
  | some p => simp [Ramp.settling_iff, Head.settled_iff, and_assoc]

theorem State.emptyDue_none {s : State} {n : RampNo} (hp : (s.ramp n).plan = none) : s.emptyDue n = false := by
  simp [State.emptyDue, State.emptyHolds, hp]

theorem State.judgementDue_iff (s : State) (n : RampNo) : s.judgementDue n = true ↔
    (s.ramp n).emptyPending = true ∨
      ∃ p, (s.ramp n).plan = some p ∧ (s.ramp n).emptyJudged = false ∧ s.AllClear n p := by
  rw [State.judgementDue, Bool.or_eq_true]
  refine or_congr_right ?_
  cases hp : (s.ramp n).plan with
  | none => simp [State.emptyDue_none hp]
  | some p => simp [State.emptyDue_iff hp, and_comm]

/-! ### Proving and links (R119, R130) -/

theorem Head.declares_isSome (h : Head) (tolerance : Nat) : (h.declares tolerance).isSome = true ↔
    h.shown ≠ none ∧ tolerance ≤ h.mismatch ∧ ¬ (h.standing = true ∧ h.lastFault = h.shown) := by
  unfold Head.declares
  cases h.shown with
  | none => simp
  | some f => simp only []; split <;> simp_all

theorem State.faultDue_isSome (s : State) (h : HeadNo) : (s.faultDue h).isSome = true ↔
    (s.head h).due ≠ none ∨
      (s.head h).shown ≠ none ∧ s.settings.tolerance ≤ (s.head h).mismatch ∧
        ¬ ((s.head h).standing = true ∧ (s.head h).lastFault = (s.head h).shown) := by
  unfold State.faultDue
  cases hd : (s.head h).due with
  | none => simp only [Head.declares_isSome]; simp
  | some f => simp

theorem LinkCtx.lapseDue_iff (c : LinkCtx) :
    c.lapseDue = true ↔ c.supervised = true ∧ 0 < c.supTime ∧ c.supTime ≤ c.supTimer := by
  simp [LinkCtx.lapseDue, and_assoc]

/-! ### The step -/

theorem State.mem_due_of_chan {s : State} {c : Chan} {i : Instr} (h : i ∈ s.chanDue c) : i ∈ s.due :=
  State.mem_due.2 (.inr (.inr (.inl ⟨c, h⟩)))

theorem State.mem_due_of_ramp {s : State} {n : RampNo} {i : Instr} (h : i ∈ s.rampDue n) : i ∈ s.due :=
  State.mem_due.2 (.inr (.inr (.inr (.inl ⟨n, h⟩))))

theorem State.mem_due_of_lane {s : State} {n : RampNo} {k : LaneNo} {i : Instr} (h : i ∈ s.laneDue n k) : i ∈ s.due :=
  State.mem_due_of_ramp (State.mem_rampDue.2 (.inr (.inr (.inr (.inr (.inl ⟨k, h⟩))))))

theorem State.mem_due_of_link {s : State} {l : Link} {i : Instr} (h : i ∈ s.linkDue l) : i ∈ s.due :=
  match l with
  | .loc => State.mem_due.2 (.inr (.inr (.inr (.inr (.inr (.inl h))))))
  | .centre => State.mem_due.2 (.inr (.inr (.inr (.inr (.inr (.inr h))))))

/-- Every due row of a lane is a timed row of that lane whose condition holds. -/
theorem State.timedRow_of_laneDue {s : State} {n : RampNo} {k : LaneNo} {i : Instr} (h : i ∈ s.laneDue n k) :
    s.timedRow i := by
  obtain ⟨d, rfl⟩ | ⟨d, rfl⟩ | ⟨d, rfl⟩ := State.mem_laneDue.1 h
  · exact (s.laneReadyDue_iff n k).1 d
  · exact (s.spacingDue_iff n k).1 d
  · exact (s.greenEndDue_iff n k).1 d

theorem State.timedRow_of_rampDue {s : State} {n : RampNo} {i : Instr} (h : i ∈ s.rampDue n) : s.timedRow i := by
  obtain ⟨d, rfl⟩ | ⟨d, rfl⟩ | ⟨d, rfl⟩ | ⟨d, rfl⟩ | ⟨k, d⟩ | ⟨d, rfl⟩ | ⟨d, rfl⟩ | ⟨d, rfl⟩ | ⟨d, rfl⟩ :=
    State.mem_rampDue.1 h
  · exact (s.ramp n).warnDue_iff.1 d
  · exact (s.ramp n).startRedDue_iff.1 d
  · exact (s.ramp n).dwellDue_iff.1 d
  · exact (s.ramp n).flushExitMet_iff_plan.1 d
  · exact State.timedRow_of_laneDue d
  · exact (s.settledDue_iff n).1 d
  · exact (s.ramp n).closeGreenDue_iff.1 d
  · exact (s.judgementDue_iff n).1 d
  · exact (s.ramp n).overrideDone_iff.1 d

theorem State.timedRow_of_linkDue {s : State} {l : Link} {i : Instr} (h : i ∈ s.linkDue l) : s.timedRow i := by
  obtain ⟨d, rfl⟩ | ⟨d, rfl⟩ := State.mem_linkDue.1 h
  · exact (s.link l).lapseDue_iff.1 d
  · exact d

theorem State.timedRow_of_due {s : State} {i : Instr} (h : i ∈ s.due) : s.timedRow i := by
  obtain ⟨d, rfl⟩ | ⟨d, rfl⟩ | ⟨c, d⟩ | ⟨n, d⟩ | ⟨g, d, rfl⟩ | d | d := State.mem_due.1 h
  · exact s.windowTimerDue_iff.1 d
  · exact s.selfCloseDue_iff.1 d
  · obtain ⟨hq, rfl⟩ | ⟨hs, rfl⟩ := State.mem_chanDue.1 d
    · exact ((s.chan c).qualifyDue_iff _).1 hq
    · exact ((s.chan c).stuckDue_iff _).1 hs
  · exact State.timedRow_of_rampDue d
  · exact (s.faultDue_isSome g).1 d
  · exact State.timedRow_of_linkDue d
  · exact State.timedRow_of_linkDue d

/-- A row with its condition is in the part of the list that its block, channel, ramp, lane or link gives. -/
theorem State.due_of_timedRow {s : State} {i : Instr} (h : s.timedRow i) : i ∈ s.due := by
  cases i
  case windowTimerExpiry => exact State.mem_due.2 (.inl ⟨s.windowTimerDue_iff.2 h, rfl⟩)
  case windowSelfClose => exact State.mem_due.2 (.inr (.inl ⟨s.selfCloseDue_iff.2 h, rfl⟩))
  case presenceQualified c =>
    exact State.mem_due_of_chan (State.mem_chanDue.2 (.inl ⟨((s.chan c).qualifyDue_iff _).2 h, rfl⟩))
  case stuckOn c => exact State.mem_due_of_chan (State.mem_chanDue.2 (.inr ⟨((s.chan c).stuckDue_iff _).2 h, rfl⟩))
  case warnTimerExpiry n => exact State.mem_due_of_ramp (State.mem_rampDue.2 (.inl ⟨(s.ramp n).warnDue_iff.2 h, rfl⟩))
  case startRedExpiry n =>
    exact State.mem_due_of_ramp (n := n) (State.mem_rampDue.2 (by simp [(s.ramp n).startRedDue_iff.2 h]))
  case queueAlarm n =>
    exact State.mem_due_of_ramp (n := n) (State.mem_rampDue.2 (by simp [(s.ramp n).dwellDue_iff.2 h]))
  case flushHoldReached n =>
    exact State.mem_due_of_ramp (n := n) (State.mem_rampDue.2 (by simp [(s.ramp n).flushExitMet_iff_plan.2 h]))
  case laneReady n k => exact State.mem_due_of_lane (State.mem_laneDue.2 (.inl ⟨(s.laneReadyDue_iff n k).2 h, rfl⟩))
  case spacingExpiry n k =>
    exact State.mem_due_of_lane (State.mem_laneDue.2 (.inr (.inl ⟨(s.spacingDue_iff n k).2 h, rfl⟩)))
  case greenEnd n k =>
    exact State.mem_due_of_lane (State.mem_laneDue.2 (.inr (.inr ⟨(s.greenEndDue_iff n k).2 h, rfl⟩)))
  case settleComplete n =>
    exact State.mem_due_of_ramp (n := n) (State.mem_rampDue.2 (by simp [(s.settledDue_iff n).2 h]))
  case closeGreenEnd n =>
    exact State.mem_due_of_ramp (n := n) (State.mem_rampDue.2 (by simp [(s.ramp n).closeGreenDue_iff.2 h]))
  case emptyJudgement n =>
    exact State.mem_due_of_ramp (n := n) (State.mem_rampDue.2 (by simp [(s.judgementDue_iff n).2 h]))
  case overrideExpiry n =>
    exact State.mem_due_of_ramp (n := n) (State.mem_rampDue.2 (by simp [(s.ramp n).overrideDone_iff.2 h]))
  case provingFaultDeclared g =>
    exact State.mem_due.2 (by simp [(s.faultDue_isSome g).2 h])
  case supervisionLapse l => exact State.mem_due_of_link (State.mem_linkDue.2 (.inl ⟨(s.link l).lapseDue_iff.2 h, rfl⟩))
  case receiveGapTimeout l => exact State.mem_due_of_link (State.mem_linkDue.2 (.inr ⟨h, rfl⟩))
  all_goals exact h.elim

theorem State.choose_mem (s : State) (first : Instr) (rest : List Instr) : s.choose first rest ∈ first :: rest := by
  have hlt : Config.tieBreak s.tieCount % (rest.length + 1) < (first :: rest).length :=
    Nat.mod_lt _ (Nat.succ_pos _)
  rw [State.choose, List.getD_eq_getElem?_getD, List.getElem?_eq_getElem hlt]
  exact List.getElem_mem hlt

theorem step_idle {s : State} (h : s.pending = []) : step s = idle s := by
  rw [step, h]

/-- Settles O2: the rows due by their conditions, and an idle step by the number of rows due. -/
theorem idleStep : Obligations.IdleStep := by
  refine ⟨fun s i => ⟨State.timedRow_of_due, State.due_of_timedRow⟩, fun s hp =>
    ⟨fun hr => step_held_idle hr hp, fun hr hd => ?_, fun i hr hd => ?_, fun i j rest hr hd => ?_⟩⟩
  · simp [step_idle hp, idle, hr, hd]
  · simp [step_idle hp, idle, hr, hd]
  · refine ⟨s.choose i (j :: rest), hd ▸ s.choose_mem i (j :: rest), ?_⟩
    simp [step_idle hp, idle, hr, hd]

end Sys2Proof.Machine
end

section
/-! RETIRE, OPEN, CLOSE and CLEAR LOCKOUT (R24, R27, R34 to R36): what each block answers by the ramp's state, and the states
that the answers leave. -/

namespace Sys2Proof.Machine

/-! ### The blocks by the ramp's state -/

section
variable {s : State} {l : Link} {ramp : Byte} {n : RampNo} {p : Plan}

theorem State.retire_at_once (hn : rampArg ramp = some n) (hp : (s.ramp n).plan = some p)
    (ha : (s.ramp n).allows l = true)
    (h : (s.ramp n).state = .parked ∨ (s.ramp n).state = .lockout ∨ (s.ramp n).state = .opening) :
    s.retire l ramp = (s.vacate n .retire, .done) := by
  rw [State.retire, State.onPlan_some hn (by rcases h with h | h | h <;> simp [h]) hp]
  rcases h with h | h | h <;> simp [ha, h]

theorem State.retire_running (hn : rampArg ramp = some n) (hp : (s.ramp n).plan = some p)
    (ha : (s.ramp n).allows l = true) (h : (s.ramp n).state = .metering ∨ (s.ramp n).state = .flushing) :
    s.retire l ramp = (s.enterClosing n true .retire, .done) := by
  rw [State.retire, State.onPlan_some hn (by rcases h with h | h <;> simp [h]) hp]
  rcases h with h | h <;> simp [ha, h]

theorem State.retire_closing (hn : rampArg ramp = some n) (hp : (s.ramp n).plan = some p)
    (ha : (s.ramp n).allows l = true) (h : (s.ramp n).state = .closing) :
    s.retire l ramp = (s.modRamp n fun r => { r with retirePending := true }, .done) := by
  rw [State.retire, State.onPlan_some hn (by simp [h]) hp]
  simp [ha, h]

theorem State.openCommand_parked (hn : rampArg ramp = some n) (hp : (s.ramp n).plan = some p)
    (ha : (s.ramp n).allows l = true) (h : (s.ramp n).state = .parked) :
    s.openCommand l ramp =
      if s.permit then ((s.enterOpening n p).rampNotice n .opened, .done) else (s, .refuse .state) := by
  rw [State.openCommand, State.onPlan_some hn (by simp [h]) hp]
  cases s.permit <;> simp [ha, h]

theorem State.openCommand_open (hn : rampArg ramp = some n) (hp : (s.ramp n).plan = some p)
    (ha : (s.ramp n).allows l = true)
    (h : (s.ramp n).state = .opening ∨ (s.ramp n).state = .metering ∨ (s.ramp n).state = .flushing) :
    s.openCommand l ramp = (s, .done) := by
  rw [State.openCommand, State.onPlan_some hn (by rcases h with h | h | h <;> simp [h]) hp]
  rcases h with h | h | h <;> simp [ha, h]

theorem State.openCommand_state (hn : rampArg ramp = some n) (hp : (s.ramp n).plan = some p)
    (h : (s.ramp n).state = .closing ∨ (s.ramp n).state = .lockout) :
    s.openCommand l ramp = (s, .refuse .state) := by
  rw [State.openCommand, State.onPlan_some hn (by rcases h with h | h <;> simp [h]) hp]
  rcases h with h | h <;> simp [h]

theorem State.closeCommand_closed (hn : rampArg ramp = some n) (hp : (s.ramp n).plan = some p)
    (ha : (s.ramp n).allows l = true) (h : (s.ramp n).state = .parked ∨ (s.ramp n).state = .closing) :
    s.closeCommand l ramp = (s, .done) := by
  rw [State.closeCommand, State.onPlan_some hn (by rcases h with h | h <;> simp [h]) hp]
  rcases h with h | h <;> simp [ha, h]

theorem State.closeCommand_opening (hn : rampArg ramp = some n) (hp : (s.ramp n).plan = some p)
    (ha : (s.ramp n).allows l = true) (h : (s.ramp n).state = .opening) :
    s.closeCommand l ramp = ((s.leaveRunning n).park n .command .close, .done) := by
  rw [State.closeCommand, State.onPlan_some hn (by simp [h]) hp]
  simp [ha, h]

theorem State.closeCommand_running (hn : rampArg ramp = some n) (hp : (s.ramp n).plan = some p)
    (ha : (s.ramp n).allows l = true) (h : (s.ramp n).state = .metering ∨ (s.ramp n).state = .flushing) :
    s.closeCommand l ramp = (s.enterClosing n false .close, .done) := by
  rw [State.closeCommand, State.onPlan_some hn (by rcases h with h | h <;> simp [h]) hp]
  rcases h with h | h <;> simp [ha, h]

theorem State.closeCommand_lockout (hn : rampArg ramp = some n) (hp : (s.ramp n).plan = some p)
    (h : (s.ramp n).state = .lockout) : s.closeCommand l ramp = (s, .refuse .state) := by
  rw [State.closeCommand, State.onPlan_some hn (by simp [h]) hp]
  simp [h]

theorem State.lampsProved_iff (s : State) (n : RampNo) (p : Plan) : s.lampsProved n p = true ↔
    ∃ k ∈ p.laneList, (s.head (headOf n k)).redProved = true ∨ (s.head (headOf n k)).greenProved = true := by
  simp [State.lampsProved]

theorem State.clearLockout_lockout (hn : rampArg ramp = some n) (hp : (s.ramp n).plan = some p)
    (ha : (s.ramp n).allows l = true) (h : (s.ramp n).state = .lockout) :
    s.clearLockout l ramp =
      if s.lampsProved n p then (s, .refuse .conflict)
      else if (s.ramp n).retirePending then (s.vacate n .clearLockout, .done)
      else (s.park n .command .clearLockout, .done) := by
  rw [State.clearLockout, State.onPlan_some hn (by simp [h]) hp]
  simp [ha, h]

end

/-! ### A block's answer, as the statements give it -/

theorem exec_retire (l : Link) (ramp : Byte) (s : State) :
    exec (.retire l ramp) s = .next (s.frame l 0x14 fun t => t.retire l ramp) := rfl

theorem exec_openRamp (l : Link) (ramp : Byte) (s : State) :
    exec (.openRamp l ramp) s = .next (s.frame l 0x15 fun t => t.openCommand l ramp) := rfl

theorem exec_closeRamp (l : Link) (ramp : Byte) (s : State) :
    exec (.closeRamp l ramp) s = .next (s.frame l 0x16 fun t => t.closeCommand l ramp) := rfl

theorem exec_clearLockout (l : Link) (ramp : Byte) (s : State) :
    exec (.clearLockout l ramp) s = .next (s.frame l 0x17 fun t => t.clearLockout l ramp) := rfl

section
variable {s : State} {l : Link} {code : Byte} {run : State → State × Reply}

/-- A command that its block takes with nothing to do: DONE, and only the links differ. -/
theorem State.frame_done_idle (h : s.takes l) (e : run (s.goodFrame l) = (s.goodFrame l, .done)) :
    Answered s (s.frame l code run) l code .done [] ∧ NoNotice s (s.frame l code run) l ∧
      OnlyLinks s (s.frame l code run) := by
  rw [State.frame_eq h e]
  exact ⟨answered_of_setsOnly (SetsOnly.refl _) code .done, noNotice_of_sets (fun _ => rfl) code _,
    (OnlyLinks.refl _).framed code _⟩

/-- A command by which the ramp reaches VACANT. -/
theorem State.frame_vacates {n : RampNo} {cause : RampCause} (h : s.takes l)
    (e : run (s.goodFrame l) = ((s.goodFrame l).vacate n cause, .done)) :
    Vacated s (s.frame l code run) n ∧
      Raised (s.frame l code run) .rampState n.val (.rampState .vacant cause) false ∧
      Answered s (s.frame l code run) l code .done [] := by
  rw [State.frame_eq h e]
  exact ⟨(State.vacate_vacated _ n cause).framed code _, (State.vacate_raised _ n cause).respond l code _,
    answered_of_setsOnly (State.vacate_refsOnly _ n cause).2 code .done⟩

/-- A command that takes a METERING or FLUSHING ramp into CLOSING. -/
theorem State.frame_enters_closing {n : RampNo} {p : Plan} {retire : Bool} {cause : RampCause} (h : s.takes l)
    (hp : (s.ramp n).plan = some p)
    (e : run (s.goodFrame l) = ((s.goodFrame l).enterClosing n retire cause, .done)) :
    ClosingEntered s (s.frame l code run) n p ((s.ramp n).retirePending || retire) cause ∧
      Answered s (s.frame l code run) l code .done [] := by
  rw [State.frame_eq h e]
  have hc := State.enterClosing_entered (s := s.goodFrame l) (n := n) (p := p) (by simpa using hp) retire cause
  rw [State.goodFrame_ramp] at hc
  exact ⟨hc.framed code _, answered_of_setsOnly (State.enterClosing_refsOnly _ n retire cause).2 code .done⟩

end

theorem State.takes.resetHeld_framed {s u : State} {l : Link} (h : s.takes l) (hu : RestSame (s.goodFrame l) u)
    (code : Byte) (r : Reply) : (u.respond l code r).resetHeld = false :=
  (hu.framed code r).resetHeld.trans h.1

theorem State.beacon_up {s : State} (h : s.resetHeld = false) (n : RampNo) : s.beacon n = (s.ramp n).beaconLit := by
  simp [State.beacon, State.ramp, h]

/-! ### RETIRE (R35, R36) -/

/-- Settles O19: the block by the ramp's state, then the three answers it gives. -/
theorem retireTaken : Obligations.RetireTaken := by
  intro s l ramp n p ht hn hp ha
  have hp' : ((s.goodFrame l).ramp n).plan = some p := by simpa using hp
  have ha' : ((s.goodFrame l).ramp n).allows l = true := by simpa using ha
  refine ⟨fun hs => ?_, fun hs => ?_, fun hs => ?_⟩
  · exact ⟨_, exec_retire l ramp s,
      State.frame_vacates ht (State.retire_at_once hn hp' ha' (by simpa using hs))⟩
  · have h := State.frame_enters_closing (code := 0x14) (run := fun t => t.retire l ramp) ht hp
      (State.retire_running hn hp' ha' (by simpa using hs))
    rw [Bool.or_true] at h
    exact ⟨_, exec_retire l ramp s, h⟩
  · refine ⟨_, exec_retire l ramp s, ?_⟩
    rw [State.frame_eq ht (State.retire_closing hn hp' ha' (by simpa using hs))]
    have hm := State.modRamp_rampOnly (s.goodFrame l) n fun r => { r with retirePending := true }
    exact ⟨by simp, by simp, answered_of_setsOnly hm.2 0x14 .done, noNotice_of_sets (by simp) _ _, hm.1.framed _ _⟩

/-! ### OPEN (R24) -/

theorem State.heads_enterOpening {s : State} {n : RampNo} {p : Plan} (h : 0 < p.timing.warn) :
    (s.enterOpening n p).heads = s.heads := by
  simp [State.enterOpening, Nat.ne_of_gt h]

theorem State.enterOpening_red {s : State} {n : RampNo} {p : Plan} (h : p.timing.warn = 0) {k : LaneNo}
    (hk : k ∈ p.laneList) : ((s.enterOpening n p).head (headOf n k)).aspect = .red := by
  simp [State.enterOpening, h, State.head_enterStartRed, hk, Head.aspect, CycleState.aspect]

theorem State.enterOpening_raised (s : State) (n : RampNo) (p : Plan) :
    Raised ((s.enterOpening n p).rampNotice n .opened) .rampState n.val (.rampState .opening .opened) false := by
  have h := raised_raise (s.enterOpening n p) .rampState n.val (.rampState ((s.enterOpening n p).ramp n).state .opened) false
  simpa [State.rampNotice, State.ramp_enterOpening] using h

/-- Settles O20: from PARKED the opening or the refusal by PERMIT, from the open states nothing, from the others STATE. -/
theorem openTaken : Obligations.OpenTaken := by
  intro s l ramp n p ht hn hp
  have hp' : ((s.goodFrame l).ramp n).plan = some p := by simpa using hp
  refine ⟨fun hs ha hpm => ?_, fun hs ha hpm => ?_, fun hs ha => ?_, fun hs => ?_⟩
  · refine ⟨_, exec_openRamp l ramp s, ?_⟩
    have e := State.openCommand_parked (s := s.goodFrame l) hn hp' (by simpa using ha) (by simpa using hs)
    rw [State.frame_eq ht (e.trans (if_pos (by simpa using hpm)))]
    have hm := (State.enterOpening_rampOnly (s.goodFrame l) n p).trans (State.rampNotice_rampOnly _ n n .opened)
    refine ⟨by simp [State.ramp_enterOpening], fun hw => ?_, fun hw k hk => ?_, ?_,
      (State.enterOpening_raised _ n p).respond l _ _, answered_of_setsOnly hm.2 0x15 .done, hm.1.framed _ _⟩
    · simp [State.heads_enterOpening hw]
    · simpa using State.enterOpening_red hw hk
    · rw [State.beacon_up (ht.resetHeld_framed hm.1.toRestSame _ _)]
      simp [State.ramp_enterOpening, Ramp.beaconLit]
  · refine ⟨_, exec_openRamp l ramp s, State.frame_refused ht ?_⟩
    have e := State.openCommand_parked (s := s.goodFrame l) hn hp' (by simpa using ha) (by simpa using hs)
    exact e.trans (if_neg (by simp [hpm]))
  · exact ⟨_, exec_openRamp l ramp s,
      State.frame_done_idle ht (State.openCommand_open hn hp' (by simpa using ha) (by simpa using hs))⟩
  · exact ⟨_, exec_openRamp l ramp s, State.frame_refused ht (State.openCommand_state hn hp' (by simpa using hs))⟩

/-! ### CLOSE (R27) -/

/-- Settles O21: from OPENING straight to PARKED, from METERING and FLUSHING into CLOSING, elsewhere nothing or STATE. -/
theorem closeTaken : Obligations.CloseTaken := by
  intro s l ramp n p ht hn hp
  have hp' : ((s.goodFrame l).ramp n).plan = some p := by simpa using hp
  refine ⟨fun hs ha => ?_, fun hs ha => ?_, fun hs ha => ?_, fun hs => ?_⟩
  · exact ⟨_, exec_closeRamp l ramp s,
      State.frame_done_idle ht (State.closeCommand_closed hn hp' (by simpa using ha) (by simpa using hs))⟩
  · refine ⟨_, exec_closeRamp l ramp s, ?_⟩
    rw [State.frame_eq ht (State.closeCommand_opening hn hp' (by simpa using ha) (by simpa using hs))]
    have hm := (State.leaveRunning_rampOnly (s.goodFrame l) n).trans (State.park_rampOnly _ n .command .close)
    refine ⟨?_, ?_, ?_, ?_, ?_, ?_, fun k => ?_, ?_, (State.park_raised _ n _ _).respond l _ _,
      answered_of_setsOnly hm.2 0x16 .done, hm.1.framed _ _⟩
    case refine_7 => simpa using State.park_dark ((s.goodFrame l).leaveRunning n) n .command .close k
    case refine_8 =>
      rw [State.beacon_up (ht.resetHeld_framed hm.1.toRestSame _ _)]
      simp [State.ramp_park, Ramp.beaconLit]
    all_goals simp [State.ramp_park, State.ramp_leaveRunning, RatesKept]
  · have h := State.frame_enters_closing (code := 0x16) (run := fun t => t.closeCommand l ramp) ht hp
      (State.closeCommand_running hn hp' (by simpa using ha) (by simpa using hs))
    rw [Bool.or_false] at h
    exact ⟨_, exec_closeRamp l ramp s, h⟩
  · exact ⟨_, exec_closeRamp l ramp s, State.frame_refused ht (State.closeCommand_lockout hn hp' (by simpa using hs))⟩

/-! ### CLEAR LOCKOUT (R34, R36) -/

/-- Settles O22: CONFLICT by the lamps, then VACANT or PARKED by the retire pending mark. -/
theorem clearLockoutTaken : Obligations.ClearLockoutTaken := by
  intro s l ramp n p ht hn hp hs ha
  have e := State.clearLockout_lockout (s := s.goodFrame l) (l := l) (p := p) hn (by simpa using hp) (by simpa using ha)
    (by simpa using hs)
  refine ⟨fun hl => ?_, fun hl => ?_⟩
  · refine ⟨_, exec_clearLockout l ramp s, State.frame_refused ht (e.trans (if_pos ?_))⟩
    exact (State.lampsProved_iff _ n p).2 (by simpa using hl)
  · have hlamp : ¬ (s.goodFrame l).lampsProved n p = true := by
      rw [State.lampsProved_iff]
      rintro ⟨k, hk, hon⟩
      simp [hl k hk] at hon
    rw [if_neg hlamp] at e
    refine ⟨fun hr => ?_, fun hr => ?_⟩
    · refine ⟨_, exec_clearLockout l ramp s, ?_⟩
      rw [State.frame_eq ht (e.trans (if_neg (by simp [hr])))]
      have hm := State.park_rampOnly (s.goodFrame l) n .command .clearLockout
      exact ⟨by simp [State.ramp_park], fun k => by simpa using State.park_dark (s.goodFrame l) n _ _ k,
        (State.park_raised _ n _ _).respond l _ _, answered_of_setsOnly hm.2 0x17 .done, hm.1.framed _ _⟩
    · exact ⟨_, exec_clearLockout l ramp s, State.frame_vacates ht (e.trans (if_pos (by simpa using hr)))⟩

end Sys2Proof.Machine
end

section
/-! WARN TIMER EXPIRY (R25). -/

namespace Sys2Proof.Machine

theorem exec_warnTimerExpiry {s : State} {n : RampNo} {p : Plan} (hr : s.resetHeld = false)
    (hp : (s.ramp n).plan = some p) (hd : (s.ramp n).warnDue = true) :
    exec (.warnTimerExpiry n) s = .next (s.enterStartRed n p) := by
  change Host.Outcome.next (s.running fun t => if (t.ramp n).warnDue then t.endWarn n else t) = _
  rw [State.running_up hr, if_pos hd, State.endWarn, hp]

/-- Settles O24: the row is due, and START-RED is entered. -/
theorem warnEnds : Obligations.WarnEnds := by
  intro s n p hr hst hsub hp hw
  have hd : (s.ramp n).warnDue = true := (s.ramp n).warnDue_iff.2 ⟨p, hp, hst, hsub, hw⟩
  have hm := State.enterStartRed_rampOnly s n p
  refine ⟨_, exec_warnTimerExpiry hr hp hd, State.ramp_enterStartRed s n p, fun k hk => ?_, fun k hk => ?_, hm.1, hm.2⟩
  · rw [State.head_enterStartRed, if_pos hk]
  · rw [State.head_enterStartRed, if_neg hk]

end Sys2Proof.Machine
end

section
/-! PERMIT LOSS and PERMIT RETURN (R37, R38): one ramp's stop, what the stops of the other ramps leave of it, and the event as a
whole. -/

namespace Sys2Proof.Machine

/-! ### An operation made for each ramp -/

/-- What the operation for ramp `n` brings about holds at the end, when the operations before it keep its premise and those after
it keep what it brought. -/
theorem State.eachRamp_brings {f : RampNo → State → State} {P Q : State → Prop} (n : RampNo)
    (hP : ∀ m, m ≠ n → ∀ t, P t → P (f m t)) (hn : ∀ t, P t → Q (f n t)) (hQ : ∀ m, m ≠ n → ∀ t, Q t → Q (f m t))
    {s : State} (hs : P s) : Q (s.eachRamp f) := by
  have kept : ∀ (l : List RampNo), n ∉ l → ∀ t, Q t → Q (l.foldl (fun t m => f m t) t) := by
    intro l
    induction l with
    | nil => exact fun _ _ h => h
    | cons m rest ih =>
      intro hm t ht
      obtain ⟨hne, hrest⟩ := not_or.1 (fun h => hm (List.mem_cons.2 h))
      exact ih hrest _ (hQ m (Ne.symm hne) t ht)
  have brought : ∀ (l : List RampNo), l.Nodup → n ∈ l → ∀ t, P t → Q (l.foldl (fun t m => f m t) t) := by
    intro l
    induction l with
    | nil => exact fun _ h => absurd h List.not_mem_nil
    | cons m rest ih =>
      intro nd hm t ht
      obtain ⟨hnot, nd⟩ := List.nodup_cons.1 nd
      by_cases e : m = n
      · subst e
        exact kept rest hnot _ (hn t ht)
      · exact ih nd ((List.mem_cons.1 hm).resolve_left (Ne.symm e)) _ (hP m e t ht)
  exact brought (List.finRange 16) (List.nodup_finRange 16) (List.mem_finRange n) s hs

/-! ### Due faults (log 30) -/

@[simp] theorem Head.reprove_due (old new : Head) : (old.reprove new).due = new.due := by
  rw [Head.reprove_eq]

@[simp] theorem Head.darkened_due (h : Head) : h.darkened.due = h.due := by
  unfold Head.darkened
  split <;> rfl

theorem State.due_writeHead {s : State} {g : HeadNo} {c : Head} (hc : c.due = (s.head g).due) (h : HeadNo) :
    ((s.writeHead g c).head h).due = (s.head h).due := by
  rw [State.head_writeHead]
  split
  · next e => rw [Head.reprove_due, hc, e]
  · rfl

@[simp] theorem State.due_darken (s : State) (n : RampNo) (h : HeadNo) : ((s.darken n).head h).due = (s.head h).due :=
  State.eachLane_induct (P := fun t => (t.head h).due = (s.head h).due)
    (fun _ _ e => (State.due_writeHead (Head.darkened_due _) h).trans e) _ rfl

@[simp] theorem State.due_clearDemands (s : State) (n : RampNo) (h : HeadNo) :
    ((s.clearDemands n).head h).due = (s.head h).due := by
  refine State.eachLane_induct (P := fun t => (t.head h).due = (s.head h).due) (fun k t e => ?_) _ rfl
  rw [State.head_setHead]
  split
  · next e' => rw [← e, e']; rfl
  · exact e

@[simp] theorem State.due_park (s : State) (n : RampNo) (stop : StopCause) (cause : RampCause) (h : HeadNo) :
    ((s.park n stop cause).head h).due = (s.head h).due := by
  simp [State.park]

@[simp] theorem State.due_vacate (s : State) (n : RampNo) (cause : RampCause) (h : HeadNo) :
    ((s.vacate n cause).head h).due = (s.head h).due := by
  have e : (s.vacate n cause).head h = ((s.darken n).clearDemands n).head h := by simp [State.vacate, State.head]
  rw [e, State.due_clearDemands, State.due_darken]

/-! ### One ramp's stop -/

section
variable {s : State} {n : RampNo}

theorem State.permitStops_still (h : (s.ramp n).running = false) : s.permitStops n = s := by
  simp [State.permitStops, h]

theorem State.permitStops_parks (h : (s.ramp n).running = true) (hr : (s.ramp n).retirePending = false) :
    s.permitStops n = (s.leaveRunning n).park n .permit .permitLost := by
  simp [State.permitStops, h, hr]

theorem State.permitStops_vacates (h : (s.ramp n).running = true) (hr : (s.ramp n).retirePending = true) :
    s.permitStops n = (s.leaveRunning n).vacate n .permitLost := by
  simp [State.permitStops, h, hr]

/-- The three things that the loss of PERMIT can do to a ramp. -/
theorem State.permitStops_cases (s : State) (n : RampNo) :
    (s.ramp n).running = false ∧ s.permitStops n = s ∨
      (s.ramp n).running = true ∧ (s.ramp n).retirePending = false ∧
        s.permitStops n = (s.leaveRunning n).park n .permit .permitLost ∨
      (s.ramp n).running = true ∧ (s.ramp n).retirePending = true ∧
        s.permitStops n = (s.leaveRunning n).vacate n .permitLost := by
  cases h : (s.ramp n).running with
  | false => exact .inl ⟨rfl, State.permitStops_still h⟩
  | true =>
    cases hr : (s.ramp n).retirePending with
    | false => exact .inr (.inl ⟨rfl, rfl, State.permitStops_parks h hr⟩)
    | true => exact .inr (.inr ⟨rfl, rfl, State.permitStops_vacates h hr⟩)

end

@[simp] theorem State.due_permitStops (s : State) (n : RampNo) (h : HeadNo) :
    ((s.permitStops n).head h).due = (s.head h).due := by
  obtain ⟨_, e⟩ | ⟨_, _, e⟩ | ⟨_, _, e⟩ := s.permitStops_cases n <;> simp [e]

theorem untouched_leaveRunning (s : State) {k : NoticeKind} {i : Nat} {n : RampNo} (ne : ¬(k = .flush ∧ i = n.val)) :
    Untouched k i s (s.leaveRunning n) := by
  unfold State.leaveRunning
  simp only []
  split
  · exact (untouched_modRamp s k i n _).trans (untouched_liveClear _ ne)
  · exact untouched_modRamp s k i n _

theorem untouched_permitStops (s : State) {k : NoticeKind} {i : Nat} {n : RampNo} (nl : k ≠ .lamp)
    (nr : ¬(k = .rampState ∧ i = n.val)) (nf : ¬(k = .flush ∧ i = n.val)) : Untouched k i s (s.permitStops n) := by
  obtain ⟨_, e⟩ | ⟨_, _, e⟩ | ⟨_, _, e⟩ := s.permitStops_cases n <;> rw [e]
  · exact Untouched.refl k i s
  · exact (untouched_leaveRunning s nf).trans (untouched_park _ _ _ nl nr)
  · exact (untouched_leaveRunning s nf).trans (untouched_vacate _ _ nl nr)

/-- A stop takes memberships away and gives none. -/
theorem State.members_permitStops (s : State) (n : RampNo) (z : ZoneNo) :
    ((s.permitStops n).zone z).members ⊆ (s.zone z).members := by
  have hz : (s.leaveRunning n).zone z = s.zone z := congrArg (Table.get · z) (State.leaveRunning_rampOnly s n).1.zones
  obtain ⟨_, e⟩ | ⟨_, _, e⟩ | ⟨_, _, e⟩ := s.permitStops_cases n <;> rw [e]
  · exact List.Subset.refl _
  · have hp : ((s.leaveRunning n).park n .permit .permitLost).zone z = (s.leaveRunning n).zone z :=
      congrArg (Table.get · z) (State.park_rampOnly _ n _ _).1.zones
    rw [hp, hz]
    exact List.Subset.refl _
  · rw [State.zone_vacate, hz]
    exact fun _ hm => (List.mem_filter.1 hm).1

/-- A stop takes references away and gives none. -/
theorem State.refs_permitStops (s : State) (n : RampNo) (c : Chan) :
    ((s.permitStops n).chan c).refs ⊆ (s.chan c).refs := by
  have hc : (s.leaveRunning n).chan c = s.chan c := congrArg (Table.get · c) (State.leaveRunning_rampOnly s n).1.chans
  obtain ⟨_, e⟩ | ⟨_, _, e⟩ | ⟨_, _, e⟩ := s.permitStops_cases n <;> rw [e]
  · exact List.Subset.refl _
  · have hp : ((s.leaveRunning n).park n .permit .permitLost).chan c = (s.leaveRunning n).chan c :=
      congrArg (Table.get · c) (State.park_rampOnly _ n _ _).1.chans
    rw [hp, hc]
    exact List.Subset.refl _
  · rw [State.refs_vacate, hc]
    exact fun _ hm => (List.mem_filter.1 hm).1

/-- What the loss of PERMIT leaves in `t` of ramp `n`, which had the record `r` (R37, R106). -/
structure PermitStopped (r : Ramp) (t : State) (n : RampNo) : Prop where
  stopped : (t.ramp n).running = false
  still : r.running = false → t.ramp n = r
  parked : r.running = true → r.retirePending = false →
    t.ramp n = { r.installAmendment with
      emptyJudged := false, state := .parked, sub := none, subTimer := 0, closeTimer := 0, stopped := some .permit } ∧
      Raised t .rampState n.val (.rampState .parked .permitLost) false
  vacant : r.running = true → r.retirePending = true →
    t.ramp n = Ramp.vacantRecord ∧ (∀ z, ∀ m ∈ (t.zone z).members, m.1 ≠ n) ∧
      (∀ c, ∀ p ∈ (t.chan c).refs, p.1 ≠ .ramp n) ∧
      Raised t .rampState n.val (.rampState .vacant .permitLost) false
  dark : r.running = true → ∀ k, (t.head (headOf n k)).aspect = .dark
  flush : r.state = .flushing → NotLive t .flush n.val

theorem State.permitStops_stopped (s : State) (n : RampNo) : PermitStopped (s.ramp n) (s.permitStops n) n := by
  obtain ⟨h, e⟩ | ⟨h, hr, e⟩ | ⟨h, hr, e⟩ := s.permitStops_cases n <;> rw [e]
  · have hf : (s.ramp n).state ≠ .flushing := fun x => by simp [Ramp.running, x] at h
    exact ⟨h, fun _ => rfl, by simp [h], by simp [h], by simp [h], fun x => absurd x hf⟩
  · have hramp : ((s.leaveRunning n).park n .permit .permitLost).ramp n = { (s.ramp n).installAmendment with
        emptyJudged := false, state := .parked, sub := none, subTimer := 0, closeTimer := 0
        stopped := some .permit } := by
      rw [State.ramp_park, State.ramp_leaveRunning]
    exact ⟨by simp [hramp, Ramp.running], by simp [h], fun _ _ => ⟨hramp, State.park_raised _ n _ _⟩, by simp [hr],
      fun _ => State.park_dark _ n _ _,
      fun hf => (untouched_park _ _ _ (by simp) (by simp)).2 (State.leaveRunning_notLive hf)⟩
  · have hv := State.vacate_vacated (s.leaveRunning n) n .permitLost
    refine ⟨by simp [hv.record, Ramp.running, Ramp.vacantRecord], by simp [h], by simp [hr],
      fun _ _ => ⟨hv.record, fun z m hm => ?_, fun c p hp => ?_, State.vacate_raised _ n _⟩, fun _ => hv.dark,
      fun hf => (untouched_vacate _ _ (by simp) (by simp)).2 (State.leaveRunning_notLive hf)⟩
    · rw [hv.members] at hm
      exact of_decide_eq_true (List.mem_filter.1 hm).2
    · rw [hv.refs] at hp
      exact of_decide_eq_true (List.mem_filter.1 hp).2

/-- What a ramp's stop left stays through an event that keeps the ramp and its notices, and gives no membership and no reference. -/
theorem PermitStopped.mono {r : Ramp} {t u : State} {n : RampNo} (h : PermitStopped r t n) (hr : u.ramp n = t.ramp n)
    (hh : ∀ k, u.head (headOf n k) = t.head (headOf n k)) (hz : ∀ z, (u.zone z).members ⊆ (t.zone z).members)
    (hc : ∀ c, (u.chan c).refs ⊆ (t.chan c).refs) (hs : Untouched .rampState n.val t u)
    (hf : Untouched .flush n.val t u) : PermitStopped r u n where
  stopped := hr ▸ h.stopped
  still := fun x => hr.trans (h.still x)
  parked := fun x y => ⟨hr.trans (h.parked x y).1, hs.1 _ _ (h.parked x y).2⟩
  vacant := fun x y => by
    obtain ⟨hv, hm, hp, hn⟩ := h.vacant x y
    exact ⟨hr.trans hv, fun z m i => hm z m (hz z i), fun c p i => hp c p (hc c i), hs.1 _ _ hn⟩
  dark := fun x k => by rw [hh k]; exact h.dark x k
  flush := fun x => hf.2 (h.flush x)

theorem PermitStopped.permitStops {r : Ramp} {t : State} {n m : RampNo} (h : PermitStopped r t n) (ne : m ≠ n) :
    PermitStopped r (t.permitStops m) n := by
  have ho := (State.permitStops_refsOnly t m).1
  have hv : n.val ≠ m.val := fun e => ne (Fin.ext e.symm)
  exact h.mono (ho.ramps n (Ne.symm ne)) (fun k => ho.heads _ (by simpa using Ne.symm ne)) (t.members_permitStops m)
    (t.refs_permitStops m) (untouched_permitStops t (by simp) (by simp [hv]) (by simp))
    (untouched_permitStops t (by simp) (by simp) (by simp [hv]))

/-! ### The event -/

/-- Every ramp has stopped, before the PERMIT notice is raised. -/
def State.allStopped (s : State) : State := ({ s with permit := false } : State).eachRamp fun n t => t.permitStops n

theorem State.losePermit_eq (s : State) : s.losePermit = s.allStopped.raise .permit 0 .none true := rfl

theorem State.allStopped_stopped (s : State) (n : RampNo) : PermitStopped (s.ramp n) s.allStopped n := by
  unfold State.allStopped
  exact State.eachRamp_brings (P := fun t => t.ramp n = s.ramp n) (Q := fun t => PermitStopped (s.ramp n) t n) n
    (fun m ne t e => ((State.permitStops_refsOnly t m).1.ramps n (Ne.symm ne)).trans e)
    (fun t e => e ▸ t.permitStops_stopped n) (fun _ ne _ h => h.permitStops ne) rfl

theorem State.allStopped_permit (s : State) : s.allStopped.permit = false := by
  unfold State.allStopped
  exact State.eachRamp_induct (P := fun t => t.permit = false)
    (fun n t h => (State.permitStops_refsOnly t n).1.permit.trans h) rfl

theorem State.due_allStopped (s : State) (h : HeadNo) : (s.allStopped.head h).due = (s.head h).due := by
  unfold State.allStopped
  exact State.eachRamp_induct (P := fun t => (t.head h).due = (s.head h).due)
    (fun n t e => (t.due_permitStops n h).trans e) rfl

theorem State.allStopped_setsOnly (s : State) : SetsOnly s s.allStopped := by
  unfold State.allStopped
  exact State.eachRamp_induct (P := SetsOnly s) (fun n t h => h.trans (State.permitStops_refsOnly t n).2)
    (SetsOnly.of_links fun l => by cases l <;> rfl)

theorem State.losePermit_stopped (s : State) (n : RampNo) : PermitStopped (s.ramp n) s.losePermit n :=
  (s.allStopped_stopped n).mono (by simp [State.losePermit_eq]) (fun k => by simp [State.losePermit_eq])
    (fun z => by simp [State.losePermit_eq]) (fun c => by simp [State.losePermit_eq])
    (untouched_raise _ _ _ (by simp)) (untouched_raise _ _ _ (by simp))

theorem State.losePermit_permit (s : State) : s.losePermit.permit = false := by
  rw [State.losePermit_eq, State.raise_permit, State.allStopped_permit]

theorem State.due_losePermit (s : State) (h : HeadNo) : (s.losePermit.head h).due = (s.head h).due := by
  rw [State.losePermit_eq, State.raise_head, State.due_allStopped]

theorem State.losePermit_setsOnly (s : State) : SetsOnly s s.losePermit :=
  s.allStopped_setsOnly.trans (State.raise_setsOnly _ _ _ _ _)

theorem exec_permitLoss {s : State} (hr : s.resetHeld = false) (hp : s.permit = true) :
    exec .permitLoss s = .next s.losePermit := by
  change Host.Outcome.next (if s.resetHeld then { s with permit := false } else if s.permit then s.losePermit else s) = _
  simp [hr, hp]

theorem exec_permitReturn {s : State} (hr : s.resetHeld = false) (hp : s.permit = false) :
    exec .permitReturn s = .next (({ s with permit := true } : State).liveClear .permit 0) := by
  change Host.Outcome.next (if s.resetHeld then { s with permit := true } else if s.permit then s
    else ({ s with permit := true } : State).liveClear .permit 0) = _
  simp [hr, hp]

/-- Settles O60: the loss ramp by ramp through `PermitStopped`; the return is a live clear under the asserted line. -/
theorem permitLossAndReturn : Obligations.PermitLossAndReturn := by
  intro s hr
  refine ⟨fun hp => ?_, fun hp => ?_⟩
  · have hstop := s.losePermit_stopped
    refine ⟨_, exec_permitLoss hr hp, s.losePermit_permit, fun n => (hstop n).stopped, fun n => (hstop n).still,
      fun n h hret => ?_, fun n => (hstop n).vacant, fun n k h => (hstop n).dark h k, fun n => (hstop n).flush,
      s.due_losePermit, raised_raise _ _ _ _ _, s.losePermit_setsOnly⟩
    obtain ⟨hramp, hraised⟩ := (hstop n).parked h hret
    rw [hramp]
    exact ⟨rfl, rfl, rfl, rfl, by simp [RatesKept], by simp, by simp, hraised⟩
  · exact ⟨_, exec_permitReturn hr hp, rfl, rfl, rfl, rfl, rfl, fun l => by cases l <;> rfl,
      fun l => by cases l <;> rfl⟩

end Sys2Proof.Machine
end

section
/-! A new interval taken while no flush exit can come (R74, R104, R110 to R114): the lanes compared, the release, the judgement. -/

namespace Sys2Proof.Machine

/-! ### The lanes of a release -/

theorem State.lanesToRelease_subset (s : State) (n : RampNo) (p : Plan) : s.lanesToRelease n p ⊆ p.laneList := by
  unfold State.lanesToRelease
  split
  · intro k hk
    exact List.mem_of_find?_eq_some (Option.mem_toList.1 hk)
  · split
    · exact List.Subset.refl _
    · exact List.nil_subset _

section
variable {s : State} {n : RampNo} {p : Plan}

theorem State.tryRelease_of_nil (hp : (s.ramp n).plan = some p) (h : s.lanesToRelease n p = []) : s.tryRelease n = s := by
  simp [State.tryRelease_some hp, h]

theorem State.tryRelease_of_ne_nil (hp : (s.ramp n).plan = some p) (hc : (s.ramp n).cycling = true)
    (h : s.lanesToRelease n p ≠ []) : s.tryRelease n = s.greenStarts n (s.lanesToRelease n p) := by
  simp [State.tryRelease_some hp, hc, h]

theorem State.plan_greenStarts (hp : (s.ramp n).plan = some p) {lanes : List LaneNo} (nd : lanes.Nodup) :
    ((s.greenStarts n lanes).ramp n).plan = some p := by
  have hg := State.greenStarts_started hp nd
  by_cases hx : (s.ramp n).flushEnds p lanes
  · rw [(hg.exits hx).1]
    exact hp
  · rw [hg.stays hx]
    exact hp

/-- A lane that has just gone GREEN is not READY, so no judgement holds after a release (R104). -/
theorem State.greenStarts_not_allClear (h : s.lanesToRelease n p ≠ []) :
    ¬ (s.greenStarts n (s.lanesToRelease n p)).AllClear n p := by
  rintro ⟨-, hall⟩
  obtain ⟨k, hk⟩ := List.exists_mem_of_ne_nil _ h
  have hready := (hall k (s.lanesToRelease_subset n p hk)).1
  rw [State.head_greenStarts s n (s.lanesToRelease_nodup n p), if_pos hk] at hready
  simp at hready

/-- A release with the report that may follow it: no lane goes GREEN and the judgement is reported as the lanes stand, or some lane
does and there is none to report. -/
theorem State.release_cases (hp : (s.ramp n).plan = some p) (hc : (s.ramp n).cycling = true) :
    s.lanesToRelease n p = [] ∧ (s.tryRelease n).reportEmpty n = s.reportEmpty n ∨
      s.lanesToRelease n p ≠ [] ∧
        (s.tryRelease n).reportEmpty n = s.greenStarts n (s.lanesToRelease n p) ∧
        ¬ (s.greenStarts n (s.lanesToRelease n p)).AllClear n p := by
  by_cases h : s.lanesToRelease n p = []
  · exact .inl ⟨h, by rw [State.tryRelease_of_nil hp h]⟩
  · have hclear := State.greenStarts_not_allClear h
    refine .inr ⟨h, ?_, hclear⟩
    rw [State.tryRelease_of_ne_nil hp hc h, State.reportEmpty_none]
    refine Bool.eq_false_iff.2 fun hd => hclear ?_
    exact ((State.emptyDue_iff (State.plan_greenStarts hp (s.lanesToRelease_nodup n p))).1 hd).1

theorem State.allClear_reportEmpty : (s.reportEmpty n).AllClear n p ↔ s.AllClear n p := by
  simp only [State.AllClear, State.head_reportEmpty, State.ramp_reportEmpty]
  split <;> exact Iff.rfl

/-- The heads after a release with its report. -/
theorem State.head_release_reported (hp : (s.ramp n).plan = some p) (hc : (s.ramp n).cycling = true) (k : LaneNo) :
    ((s.tryRelease n).reportEmpty n).head (headOf n k) =
      if k ∈ s.lanesToRelease n p then
        (s.head (headOf n k)).reprove { s.head (headOf n k) with cycle := .green, sinceStart := 0 }
      else s.head (headOf n k) := by
  rw [State.head_reportEmpty, State.head_tryRelease hp]
  simp [hc]

/-- A METERING ramp has no flush to end. -/
theorem Ramp.noExit_of_metering {r : Ramp} (h : r.state = .metering) : r.NoExit := fun hf => by simp [h] at hf

theorem Ramp.NoExit.not_flushEnds {r : Ramp} (h : r.NoExit) (hp : r.plan = some p) (lanes : List LaneNo) :
    ¬ r.flushEnds p lanes := by
  rintro ⟨-, hf, hhold, -⟩
  exact Nat.not_lt.2 hhold (h hf p hp)

/-- What a release with its report leaves of Q and of the two marks of the judgement, when no flush exit can come (R99, R104). -/
theorem State.marks_release_reported (hp : (s.ramp n).plan = some p) (hc : (s.ramp n).cycling = true)
    (hx : (s.ramp n).NoExit) :
    let t := (s.tryRelease n).reportEmpty n
    (t.ramp n).q = (s.ramp n).qAfter p (s.lanesToRelease n p) ∧
      ((t.ramp n).emptyJudged = true ↔
        (s.ramp n).emptyJudged = true ∧ s.lanesToRelease n p = [] ∨ t.AllClear n p) ∧
      ((t.ramp n).emptyPending = true ↔ (s.ramp n).emptyPending = true ∨
        t.AllClear n p ∧ ¬ ((s.ramp n).emptyJudged = true ∧ s.lanesToRelease n p = [])) := by
  obtain ⟨hnil, he⟩ | ⟨hne, he, hclear⟩ := State.release_cases hp hc
  · have hdue := State.emptyDue_iff hp
    simp only [he, State.allClear_reportEmpty, State.ramp_reportEmpty]
    by_cases hd : s.emptyDue n = true
    · obtain ⟨hall, hj⟩ := hdue.1 hd
      simp [hd, hall, hj, hnil, Ramp.qAfter, Ramp.takingOff]
    · have hno : s.AllClear n p → (s.ramp n).emptyJudged = true := fun hall => by
        cases hj : (s.ramp n).emptyJudged with
        | true => rfl
        | false => exact absurd (hdue.2 ⟨hall, hj⟩) hd
      simp only [hd, hnil, Ramp.qAfter, Ramp.takingOff]
      simp only [Bool.false_eq_true, if_false, List.filter_nil, List.length_nil, Nat.mul_zero, Nat.sub_zero, and_true,
        true_and]
      exact ⟨⟨.inl, fun h => h.elim id hno⟩, ⟨.inl, fun h => h.elim id fun ⟨hall, hj⟩ => absurd (hno hall) hj⟩⟩
  · have hr := (State.greenStarts_started hp (s.lanesToRelease_nodup n p)).stays (hx.not_flushEnds hp _)
    simp only [he, hclear]
    simp [hr, hne]

end

/-! ### The comparison of every lane (R111) -/

theorem State.emptyJudged_judgeLane (s : State) (n : RampNo) (p : Plan) (k : LaneNo) :
    ((s.judgeLane n p k).ramp n).emptyJudged = ((s.ramp n).emptyJudged && decide
      (¬ ((s.head (headOf n k)).cycle = .ready ∧ (s.head (headOf n k)).sinceStart < (s.ramp n).interval k))) := by
  unfold State.judgeLane
  cases hc : (s.head (headOf n k)).cycle with
  | hold => simp only []; split <;> simp [State.setCycle]
  | ready =>
    simp only []
    split
    · next h => simp [State.setCycle, State.forgetEmpty, h]
    · next h => simp [h]
  | dark => simp
  | green => simp
  | restGreen => simp

/-- Every lane of a list compared with its interval. -/
def State.judgeLanes (s : State) (n : RampNo) (p : Plan) (lanes : List LaneNo) : State :=
  s.eachLane lanes fun k t => t.judgeLane n p k

/-- A lane back in HOLD forgets the judgement; nothing else of the record moves. -/
theorem State.ramp_judgeLanes (n : RampNo) (p : Plan) {lanes : List LaneNo} (nd : lanes.Nodup) (s : State) :
    (s.judgeLanes n p lanes).ramp n = { s.ramp n with
      emptyJudged := (s.ramp n).emptyJudged && decide (∀ k ∈ lanes,
        ¬ ((s.head (headOf n k)).cycle = .ready ∧ (s.head (headOf n k)).sinceStart < (s.ramp n).interval k)) } := by
  induction lanes generalizing s with
  | nil => simp [State.judgeLanes]
  | cons k rest ih =>
    obtain ⟨hk, nd⟩ := List.nodup_cons.1 nd
    have hr := s.ramp_judgeLane n p k
    rw [State.emptyJudged_judgeLane] at hr
    have hh : ∀ j ∈ rest, (s.judgeLane n p k).head (headOf n j) = s.head (headOf n j) := fun j hj =>
      State.head_judgeLane_other s n p k fun e => hk (headOf_inj e ▸ hj)
    have hi := ih nd (s.judgeLane n p k)
    have hall : (∀ j ∈ rest, ¬ (((s.judgeLane n p k).head (headOf n j)).cycle = .ready ∧
          ((s.judgeLane n p k).head (headOf n j)).sinceStart < ((s.judgeLane n p k).ramp n).interval j)) ↔
        ∀ j ∈ rest, ¬ ((s.head (headOf n j)).cycle = .ready ∧
          (s.head (headOf n j)).sinceStart < (s.ramp n).interval j) := by
      refine forall₂_congr fun j hj => ?_
      rw [hh j hj, hr]
      exact Iff.rfl
    simp only [hall] at hi
    change ((s.judgeLane n p k).judgeLanes n p rest).ramp n = _
    rw [hi, hr]
    simp only [List.forall_mem_cons, Bool.decide_and, Bool.and_assoc]

theorem State.head_judgeLanes (n : RampNo) (p : Plan) {lanes : List LaneNo} (nd : lanes.Nodup) (s : State) (j : LaneNo) :
    (s.judgeLanes n p lanes).head (headOf n j) =
      if j ∈ lanes then (s.head (headOf n j)).judged ((s.ramp n).interval j) p.timing.minRed
      else s.head (headOf n j) :=
  (State.eachLane_heads (Q := fun t => (t.ramp n).interval = (s.ramp n).interval)
    (φ := fun k h => h.judged ((s.ramp n).interval k) p.timing.minRed)
    (fun k t h => by rw [State.ramp_judgeLane]; exact h)
    (fun k t h => by rw [State.head_judgeLane, h]) (fun k t g _ e => State.head_judgeLane_other t n p k e) nd rfl).1 j

/-- A lane's comparison in the words of the statements. -/
theorem Head.judged_compared (h : Head) (interval minRed : Nat) :
    h.Compared (h.judged interval minRed) interval minRed := by
  unfold Head.judged
  constructor
  · intro hc hi hm
    simp [hc, Head.ripe, hi, hm]
  · intro hc hi
    simp [hc, hi]
  · intro hrip hshort
    cases hc : h.cycle with
    | hold =>
      have hnot : ¬ h.ripe interval minRed = true := by simpa [Head.ripe, hc] using hrip
      simp [hnot]
    | ready =>
      have hnot : ¬ h.sinceStart < interval := fun hs => hshort ⟨hc, hs⟩
      simp [hnot]
    | dark => rfl
    | green => rfl
    | restGreen => rfl

/-! ### The whole -/

/-- A release read backwards: the record before it, from the one it left. -/
theorem Ramp.Released.back {r u : Ramp} (h : r.Released u) :
    r = { u with q := r.q, emptyJudged := r.emptyJudged, emptyPending := r.emptyPending } := by
  rw [h.same]

theorem Ramp.Released.interval {r u : Ramp} (h : r.Released u) : u.interval = r.interval := by
  rw [h.same]
  rfl

/-- A new interval taken by a ramp whose lanes cycle and whose flush cannot end in the event: each lane compared, then the release and
the report (R74, R104, R110 to R114). -/
theorem State.takeInterval_taken {s : State} {n : RampNo} {p : Plan} (hp : (s.ramp n).plan = some p)
    (hc : (s.ramp n).cycling = true) (hx : (s.ramp n).NoExit) :
    IntervalTaken s (s.takeInterval n) n p (s.ramp n).q := by
  have he : s.takeInterval n = ((s.judgeLanes n p p.laneList).tryRelease n).reportEmpty n := by
    simp [State.takeInterval, State.judgeLanes, hp, hc]
  have hjr := State.ramp_judgeLanes n p p.laneList_nodup s
  have hjp : ((s.judgeLanes n p p.laneList).ramp n).plan = some p := by rw [hjr]; exact hp
  have hjc : ((s.judgeLanes n p p.laneList).ramp n).cycling = true := by rw [hjr]; exact hc
  have hjx : ((s.judgeLanes n p p.laneList).ramp n).NoExit :=
    (State.eachLane_release (fun k t x => State.judgeLane_release x p k) p.laneList hx).noExit
  have hrel : ((s.judgeLanes n p p.laneList).ramp n).Released ((s.takeInterval n).ramp n) := by
    rw [he]
    have h1 := State.tryRelease_release hjx
    exact (h1.trans (State.reportEmpty_release h1.noExit)).ramp
  have hint : ((s.takeInterval n).ramp n).interval = (s.ramp n).interval := by
    rw [hrel.interval, hjr]
    rfl
  obtain ⟨hq, hjudged, hpending⟩ := State.marks_release_reported hjp hjc hjx
  rw [← he] at hq hjudged hpending
  refine ⟨s.judgeLanes n p p.laneList, ?_, fun k hk => ?_, fun k hk => ?_, hq, hjudged, ?_, fun k => ?_⟩
  · rw [hint]
    refine hrel.back.trans ?_
    rw [hjr]
  · rw [hint, State.head_judgeLanes n p p.laneList_nodup, if_pos hk]
    exact Head.judged_compared _ _ _
  · rw [State.head_judgeLanes n p p.laneList_nodup, if_neg hk]
  · rw [hjr] at hpending ⊢
    exact hpending
  · rw [he]
    exact State.head_release_reported hjp hjc k

/-- What is said of a new interval rests on the first state's heads and marks alone. -/
theorem IntervalTaken.of_marks {s u t : State} {n : RampNo} {p : Plan} {q : Nat} (h : IntervalTaken u t n p q)
    (hj : (u.ramp n).emptyJudged = (s.ramp n).emptyJudged) (hpend : (u.ramp n).emptyPending = (s.ramp n).emptyPending)
    (hh : ∀ k, u.head (headOf n k) = s.head (headOf n k)) : IntervalTaken s t n p q := by
  unfold IntervalTaken at h ⊢
  simpa only [hj, hpend, hh] using h

end Sys2Proof.Machine
end

section
/-! START-RED EXPIRY (R26, R28, R39, R76, R99, R102, R104, R106, R110 to R114): METERING begun, its first release, and the flush that
an unspent dwell brings in the same event. -/

namespace Sys2Proof.Machine

/-! ### METERING begun, and its first release -/

/-- METERING at the start rate with every lane READY and its notice raised, before the first release. -/
def State.meteringBegun (s : State) (n : RampNo) (p : Plan) : State :=
  ((s.modRamp n fun r =>
      { r.startRates p with state := .metering, sub := none, subTimer := 0, emptyJudged := false }).eachLane p.laneList
    fun k t => t.writeHead (headOf n k) (t.head (headOf n k)).fresh).rampNotice n .startRedEnded

/-- METERING after the first release and the judgement that READY lanes may bring. -/
def State.meteringReleased (s : State) (n : RampNo) (p : Plan) : State :=
  ((s.meteringBegun n p).tryRelease n).reportEmpty n

theorem State.enterMetering_eq (s : State) (n : RampNo) (p : Plan) :
    s.enterMetering n p =
      if ((s.meteringReleased n p).ramp n).state = .metering ∧ ((s.meteringReleased n p).ramp n).alarmMet = true then
        (s.meteringReleased n p).takeAlarm n p
      else s.meteringReleased n p := rfl

theorem State.ramp_meteringBegun (s : State) (n : RampNo) (p : Plan) :
    (s.meteringBegun n p).ramp n = { s.ramp n with
      state := .metering, sub := none, subTimer := 0, emptyJudged := false, applied := p.control.startRate
      computed := p.control.startRate, limiting := some .start, intervals := p.intervals p.control.startRate } := by
  unfold State.meteringBegun
  rw [State.rampNotice_ramp]
  exact State.eachLane_induct (P := fun t => t.ramp n = _) (fun k t e => (State.writeHead_ramp _ _ _ _).trans e) _
    (State.ramp_modRamp_same _ _ _)

theorem State.head_meteringBegun (s : State) (n : RampNo) (p : Plan) (k : LaneNo) :
    (s.meteringBegun n p).head (headOf n k) =
      if k ∈ p.laneList then (s.head (headOf n k)).reprove { s.head (headOf n k) with
        cycle := .ready, sinceStart := 6000, sinceEnd := 6000 }
      else s.head (headOf n k) := by
  unfold State.meteringBegun
  rw [State.rampNotice_head, State.head_eachLane_write (φ := fun _ h => h.fresh) p.laneList_nodup]
  simp [Head.fresh]

theorem State.meteringBegun_raised (s : State) (n : RampNo) (p : Plan) :
    Raised (s.meteringBegun n p) .rampState n.val (.rampState .metering .startRedEnded) false := by
  have hst : ((s.meteringBegun n p).ramp n).state = .metering := by rw [State.ramp_meteringBegun]
  unfold State.meteringBegun at hst ⊢
  rw [State.rampNotice_ramp] at hst
  rw [State.rampNotice, hst]
  exact raised_raise _ _ _ _ _

section
variable {s : State} {n : RampNo} {p : Plan}

theorem State.plan_meteringBegun (hp : (s.ramp n).plan = some p) : ((s.meteringBegun n p).ramp n).plan = some p := by
  rw [State.ramp_meteringBegun]
  exact hp

theorem State.cycling_meteringBegun : ((s.meteringBegun n p).ramp n).cycling = true := by
  rw [State.ramp_meteringBegun]
  rfl

theorem State.noExit_meteringBegun : ((s.meteringBegun n p).ramp n).NoExit :=
  Ramp.noExit_of_metering (by rw [State.ramp_meteringBegun])

theorem State.meteringReleased_release : Release n (s.meteringBegun n p) (s.meteringReleased n p) := by
  have h := State.tryRelease_release (State.noExit_meteringBegun (s := s) (n := n) (p := p))
  exact h.trans (State.reportEmpty_release h.noExit)

theorem State.ramp_meteringReleased (s : State) (n : RampNo) (p : Plan) :
    (s.meteringReleased n p).ramp n = { s.ramp n with
      state := .metering, sub := none, subTimer := 0, applied := p.control.startRate, computed := p.control.startRate
      limiting := some .start, intervals := p.intervals p.control.startRate
      q := ((s.meteringReleased n p).ramp n).q
      emptyJudged := ((s.meteringReleased n p).ramp n).emptyJudged
      emptyPending := ((s.meteringReleased n p).ramp n).emptyPending } := by
  have h := State.meteringReleased_release (s := s) (n := n) (p := p) |>.ramp.same
  rw [State.ramp_meteringBegun] at h
  exact h

theorem State.head_meteringReleased (hp : (s.ramp n).plan = some p) (k : LaneNo) :
    (s.meteringReleased n p).head (headOf n k) =
      if k ∈ (s.meteringBegun n p).lanesToRelease n p then
        ((s.meteringBegun n p).head (headOf n k)).reprove
          { (s.meteringBegun n p).head (headOf n k) with cycle := .green, sinceStart := 0 }
      else (s.meteringBegun n p).head (headOf n k) :=
  State.head_release_reported (State.plan_meteringBegun hp) State.cycling_meteringBegun k

/-- Q after the first release is what R99 leaves of the ramp's Q. -/
theorem State.q_meteringReleased (hp : (s.ramp n).plan = some p) :
    ((s.meteringReleased n p).ramp n).q = (s.ramp n).qAfter p ((s.meteringBegun n p).lanesToRelease n p) := by
  have h := (State.marks_release_reported (State.plan_meteringBegun hp) State.cycling_meteringBegun
    State.noExit_meteringBegun).1
  refine h.trans ?_
  rw [State.ramp_meteringBegun]
  rfl

theorem State.meteringReleased_reported (hp : (s.ramp n).plan = some p)
    (hnil : (s.meteringBegun n p).lanesToRelease n p = []) :
    EmptyReported (s.meteringBegun n p) (s.meteringReleased n p) n p := by
  unfold State.meteringReleased
  rw [State.tryRelease_of_nil (State.plan_meteringBegun hp) hnil]
  exact State.reportEmpty_reported (State.plan_meteringBegun hp)

theorem State.meteringReleased_started (hp : (s.ramp n).plan = some p)
    (hne : (s.meteringBegun n p).lanesToRelease n p ≠ []) :
    GreenStarted (s.meteringBegun n p) (s.meteringReleased n p) n p ((s.meteringBegun n p).lanesToRelease n p) := by
  obtain ⟨hnil, -⟩ | ⟨-, he, -⟩ :=
    State.release_cases (State.plan_meteringBegun hp) (State.cycling_meteringBegun (s := s) (n := n) (p := p))
  · exact absurd hnil hne
  · unfold State.meteringReleased
    rw [he]
    exact State.greenStarts_started (State.plan_meteringBegun hp) (State.lanesToRelease_nodup _ n p)

/-- The heads of METERING begun: both timers at 6000 ds but for the lanes that went GREEN. -/
theorem State.meteringReleased_lanes (hp : (s.ramp n).plan = some p) {k : LaneNo} (hk : k ∈ p.laneList) :
    ((s.meteringReleased n p).head (headOf n k)).sinceEnd = 6000 ∧
      (((s.meteringReleased n p).head (headOf n k)).cycle = .ready ∨
        ((s.meteringReleased n p).head (headOf n k)).cycle = .green) := by
  rw [State.head_meteringReleased hp, State.head_meteringBegun, if_pos hk]
  split <;> simp

/-! ### The flush at once (R28, R102, R106) -/

theorem Ramp.alarmMet_iff (r : Ramp) : r.alarmMet = true ↔ r.dwellMet = true ∧ r.alarmTaken = false := by
  simp [Ramp.alarmMet]

/-- The release does not touch what the dwell and the alarm rest on. -/
theorem State.alarmMet_meteringReleased (s : State) (n : RampNo) (p : Plan) :
    ((s.meteringReleased n p).ramp n).alarmMet = (s.ramp n).alarmMet := by
  rw [State.ramp_meteringReleased]
  rfl

theorem State.enterMetering_plain (h : (s.ramp n).dwellMet = false ∨ (s.ramp n).alarmTaken = true) :
    s.enterMetering n p = s.meteringReleased n p := by
  rw [State.enterMetering_eq, State.alarmMet_meteringReleased, if_neg]
  rintro ⟨-, ha⟩
  obtain ⟨hd, ht⟩ := (Ramp.alarmMet_iff _).1 ha
  simp [hd, ht] at h

theorem State.enterMetering_alarm (hd : (s.ramp n).dwellMet = true) (ha : (s.ramp n).alarmTaken = false) :
    s.enterMetering n p = (s.meteringReleased n p).takeAlarm n p := by
  rw [State.enterMetering_eq, State.alarmMet_meteringReleased, if_pos]
  exact ⟨by rw [State.ramp_meteringReleased], (Ramp.alarmMet_iff _).2 ⟨hd, ha⟩⟩

/-- While the effective presence that met the dwell holds, the continuous-off time is 0, so the flush hold has not run. -/
theorem Ramp.Shaped.holdNotRun {r : Ramp} (h : r.Shaped) (hp : r.plan = some p) (hd : r.dwellMet = true) :
    r.contOff < p.queue.flushHold * 100 := by
  obtain ⟨_, _, he, _⟩ := r.dwellMet_iff.1 hd
  have hhold := (h.settled p hp).flushHold.1
  rw [h.present he]
  omega

/-- The alarm's new interval, taken with Q at the storage capacity. -/
theorem State.takeAlarm_intervalTaken (hp : (s.ramp n).plan = some p)
    (hc : (s.ramp n).contOff < p.queue.flushHold * 100) : IntervalTaken s (s.takeAlarm n p) n p p.queue.storage := by
  unfold State.takeAlarm
  simp only []
  generalize hw : (s.modRamp n fun r =>
      { r.flushRates p with state := .flushing, q := p.queue.storage, dwellTaken := true, alarmTaken := true }).raise .flush
        n.val (.flush .flushing .queueAlarm p.layout.queueEnd p.queue.dwell (s.ramp n).q p.queue.storage) true = w
  have hr : w.ramp n = { (s.ramp n).flushRates p with
      state := .flushing, q := p.queue.storage, dwellTaken := true, alarmTaken := true } := by
    rw [← hw]
    simp
  have hplan : (w.ramp n).plan = some p := by rw [hr]; exact hp
  have hx : (w.ramp n).NoExit := fun _ p' hp' => by
    obtain rfl : p = p' := Option.some.inj (hplan.symm.trans hp')
    rw [hr]
    exact hc
  have h := State.takeInterval_taken hplan (by rw [hr]; rfl) hx
  rw [show (w.ramp n).q = p.queue.storage by rw [hr]] at h
  exact h.of_marks (by rw [hr]; rfl) (by rw [hr]; rfl) fun k => by rw [← hw]; simp

end

/-- A lane that has just gone GREEN stays so through a new interval. -/
theorem IntervalTaken.keeps_green {s t : State} {n : RampNo} {p : Plan} {q : Nat} (h : IntervalTaken s t n p q) {k : LaneNo}
    (hk : k ∈ p.laneList) (hc : (s.head (headOf n k)).cycle = .green) (hs : (s.head (headOf n k)).sinceStart = 0) :
    (t.head (headOf n k)).cycle = .green ∧ (t.head (headOf n k)).sinceStart = 0 := by
  obtain ⟨u, -, hcmp, -, -, -, -, hheads⟩ := h
  have hu : u.head (headOf n k) = s.head (headOf n k) := (hcmp k hk).stays (by simp [hc]) (by simp [hc])
  rw [hheads k, hu]
  split
  · simp
  · exact ⟨hc, hs⟩

/-! ### The event -/

section
variable {s : State} {n : RampNo} {p : Plan}

/-- The record of the ramp that flushes at once: the effective max rate in force, Q at most the storage capacity. -/
theorem State.ramp_enterMetering_alarm (hp : (s.ramp n).plan = some p)
    (hc : (s.ramp n).contOff < p.queue.flushHold * 100) :
    Ramp.Released { s.ramp n with
        state := .flushing, sub := none, subTimer := 0, applied := (s.ramp n).effMax.getD 0
        computed := p.control.startRate, limiting := some .flush, intervals := p.intervals ((s.ramp n).effMax.getD 0)
        dwellTaken := true, alarmTaken := true, q := p.queue.storage
        emptyJudged := ((s.meteringReleased n p).ramp n).emptyJudged
        emptyPending := ((s.meteringReleased n p).ramp n).emptyPending }
      (((s.meteringReleased n p).takeAlarm n p).ramp n) := by
  have hplan : ((s.meteringReleased n p).ramp n).plan = some p := by rw [State.ramp_meteringReleased]; exact hp
  have hoff : ((s.meteringReleased n p).ramp n).contOff = (s.ramp n).contOff := by rw [State.ramp_meteringReleased]
  have h := (State.takeAlarm_effect hplan (hoff ▸ hc)).1
  rw [State.ramp_meteringReleased] at h
  exact h

theorem exec_startRedExpiry (hr : s.resetHeld = false) (hp : (s.ramp n).plan = some p)
    (hd : (s.ramp n).startRedDue = true) : exec (.startRedExpiry n) s = .next (s.enterMetering n p) := by
  change Host.Outcome.next (s.running fun t => if (t.ramp n).startRedDue then t.endStartRed n else t) = _
  rw [State.running_up hr, if_pos hd, State.endStartRed, hp]

end

/-- Settles O25: METERING begun and its first release are the two intermediate states; then the ramp stays METERING, or the alarm
takes it to FLUSHING with a new interval. -/
theorem startRedEnds : Obligations.StartRedEnds := by
  intro s n p hr hshape hst hsub hp hw
  have hm := State.enterMetering_rampOnly s n p
  have hplan : ((s.meteringReleased n p).ramp n).plan = some p := by rw [State.ramp_meteringReleased]; exact hp
  have hoff : ((s.meteringReleased n p).ramp n).contOff = (s.ramp n).contOff := by rw [State.ramp_meteringReleased]
  have hraised := (State.meteringReleased_release (s := s) (p := p)).notices .rampState n.val (by simp) |>.1 _ _
    (State.meteringBegun_raised s n p)
  have hgreen : ∀ k ∈ (s.meteringBegun n p).lanesToRelease n p,
      ((s.meteringReleased n p).head (headOf n k)).cycle = .green ∧
        ((s.meteringReleased n p).head (headOf n k)).sinceStart = 0 := fun k hk => by
    rw [State.head_meteringReleased hp, if_pos hk]
    simp
  refine ⟨_, exec_startRedExpiry hr hp ((s.ramp n).startRedDue_iff.2 ⟨p, hp, hst, hsub, hw⟩), ?_⟩
  by_cases hmet : (s.ramp n).dwellMet = false ∨ (s.ramp n).alarmTaken = true
  · have hno : (s.ramp n).dwellMet = true → (s.ramp n).alarmTaken = false → False := fun hd ha => by simp [hd, ha] at hmet
    rw [State.enterMetering_plain hmet] at hm ⊢
    have hrec := s.ramp_meteringReleased n p
    refine ⟨by rw [hrec], by rw [hrec], by rw [hrec], hraised,
      ⟨s.meteringBegun n p, s.meteringReleased n p, s.ramp_meteringBegun n p, fun k hk => ?_, fun k hk => ?_,
        State.meteringReleased_reported hp, State.meteringReleased_started hp, State.head_meteringReleased hp, hgreen,
        fun _ => ⟨rfl, fun _ => rfl⟩, fun hd ha => (hno hd ha).elim⟩,
      fun _ => ⟨by rw [hrec], by rw [hrec], by rw [hrec], by rw [hrec], fun k => State.meteringReleased_lanes hp⟩,
      fun hd ha => (hno hd ha).elim, hm.1, hm.2⟩
    · rw [State.head_meteringBegun, if_pos hk]
    · rw [State.head_meteringBegun, if_neg hk]
  · obtain ⟨hd, ha⟩ : (s.ramp n).dwellMet = true ∧ (s.ramp n).alarmTaken = false := by simpa using hmet
    have hhold := hshape.holdNotRun hp hd
    rw [State.enterMetering_alarm hd ha] at hm ⊢
    have hrec := State.ramp_enterMetering_alarm hp hhold
    have hint := State.takeAlarm_intervalTaken hplan (hoff ▸ hhold)
    obtain ⟨-, hflush, hkept⟩ := State.takeAlarm_effect hplan (hoff ▸ hhold)
    rw [State.q_meteringReleased hp] at hflush
    refine ⟨by rw [hrec.same], by rw [hrec.same], by rw [hrec.same], (hkept .rampState n.val (by simp) (by simp)).1 _ _ hraised,
      ⟨s.meteringBegun n p, s.meteringReleased n p, s.ramp_meteringBegun n p, fun k hk => ?_, fun k hk => ?_,
        State.meteringReleased_reported hp, State.meteringReleased_started hp, State.head_meteringReleased hp,
        fun k hk => hint.keeps_green (State.lanesToRelease_subset _ n p hk) (hgreen k hk).1 (hgreen k hk).2,
        fun h => absurd h hmet, fun _ _ => ⟨hint, hflush⟩⟩,
      fun h => absurd h hmet, fun _ _ => ⟨hrec.same, hrec.q, hrec.held⟩, hm.1, hm.2⟩
    · rw [State.head_meteringBegun, if_pos hk]
    · rw [State.head_meteringBegun, if_neg hk]

end Sys2Proof.Machine
end

section
/-! The steps of a rate update (R64 to R73): the mean occupancy, the least zone limit, the queue floor, the range of the final
value. -/

namespace Sys2Proof.Machine

/-! ### The inputs (R64, R70) -/

/-- The VALID entries among some channels are the entries of the VALID channels. -/
theorem Summary.validEntries (sum : Summary) (chans : List Chan) :
    (chans.map sum.entries.get).filter (fun e => decide (e.validity = .valid)) =
      (chans.filter fun c => decide ((sum.entries.get c).validity = .valid)).map sum.entries.get :=
  List.filter_map

theorem Summary.meanOccupancy_eq (sum : Summary) (chans : List Chan) :
    sum.meanOccupancy chans =
      let valid := chans.filter fun c => decide ((sum.entries.get c).validity = .valid)
      if valid = [] then none else some ((valid.map fun c => (sum.entries.get c).occupancy).sum / valid.length) := by
  simp [Summary.meanOccupancy, Summary.validEntries, Function.comp_def]

theorem Bulletin.share_eq (b : Bulletin) (n : RampNo) (z : ZoneNo) :
    b.share n z = (b.entries.find? fun e => decide (e.zone = z)).bind fun e => weightOf n e.shares := by
  unfold Bulletin.share
  cases b.entries.find? fun e => decide (e.zone = z) <;> rfl

/-! ### The base value (R67 to R69) -/

/-- The base value of an override, of the local term, or of the fallback rate, under an effective max rate in force. -/
theorem Ramp.baseValue_eq {r : Ramp} {p : Plan} {eff : Nat} (he : r.effMax = some eff) (hm : p.control.minRate ≤ eff)
    (om : Option Nat) :
    r.baseValue p om = (match r.override, om with
      | some o, _ => (((max p.control.minRate (min eff o.rate) : Nat) : Int), .override)
      | none, some om =>
        (r.applied + ((p.control.gain : Int) * ((p.control.target : Int) - (om : Int))).tdiv 16, .localTerm)
      | none, none => (p.control.fallback, .fallback)) := by
  unfold Ramp.baseValue
  cases r.override with
  | some o => simp only [he, Option.getD_some, clamp_eq hm]
  | none => cases om <;> rfl

/-! ### The zone limits (R70) -/

/-- What the zone limits of some zones make of a base value: the base value kept, or the limit of the first zone that gives the
least one below it; no zone's limit lies below the result. -/
structure LeastLimit (b : Bulletin) (n : RampNo) (d : Nat) (zones : List ZoneNo) (base v : Int × Limiting) : Prop where
  source : v = base ∨ ∃ z ∈ zones, ∃ share, b.share n z = some share ∧ v = (((d - share : Nat) : Int), .zone z) ∧
    v.1 < base.1 ∧ ∀ y ∈ zones, y < z → ∀ other, b.share n y = some other → v.1 < ((d - other : Nat) : Int)
  least : ∀ y ∈ zones, ∀ other, b.share n y = some other → v.1 ≤ ((d - other : Nat) : Int)

section
variable {b : Bulletin} {n : RampNo} {d : Nat} {zones : List ZoneNo} {base v : Int × Limiting} {z : ZoneNo}

theorem LeastLimit.le_base (h : LeastLimit b n d zones base v) : v.1 ≤ base.1 := by
  rcases h.source with e | ⟨_, _, _, _, _, hlt, _⟩
  · exact Int.le_of_eq (congrArg Prod.fst e)
  · exact Int.le_of_lt hlt

/-- A further zone, above those taken, whose limit is not strictly below the value leaves it. -/
theorem LeastLimit.keep (h : LeastLimit b n d zones base v) (above : ∀ y ∈ zones, y < z)
    (hz : ∀ other, b.share n z = some other → v.1 ≤ ((d - other : Nat) : Int)) :
    LeastLimit b n d (zones ++ [z]) base v where
  source := h.source.imp_right fun ⟨x, hx, share, hs, hv, hlt, first⟩ =>
    ⟨x, List.mem_append_left _ hx, share, hs, hv, hlt, fun y hy hyx =>
      (List.mem_append.1 hy).elim (fun hy => first y hy hyx) fun hy => by
        rw [List.mem_singleton.1 hy] at hyx
        exact absurd (above x hx) (Fin.lt_asymm hyx)⟩
  least y hy := (List.mem_append.1 hy).elim (h.least y) fun hy => List.mem_singleton.1 hy ▸ hz

/-- A further zone, above those taken, whose limit is strictly below the value gives the new one. -/
theorem LeastLimit.lower (h : LeastLimit b n d zones base v) {share : Nat} (hs : b.share n z = some share)
    (hlt : ((d - share : Nat) : Int) < v.1) :
    LeastLimit b n d (zones ++ [z]) base (((d - share : Nat) : Int), .zone z) where
  source := .inr ⟨z, by simp, share, hs, rfl, Int.lt_of_lt_of_le hlt h.le_base, fun y hy hyz other ho =>
    (List.mem_append.1 hy).elim (fun hy => Int.lt_of_lt_of_le hlt (h.least y hy other ho)) fun hy =>
      absurd (List.mem_singleton.1 hy) (Fin.ne_of_lt hyz)⟩
  least y hy other ho := (List.mem_append.1 hy).elim
    (fun hy => Int.le_trans (Int.le_of_lt hlt) (h.least y hy other ho)) fun hy => by
      rw [List.mem_singleton.1 hy, hs] at ho
      exact Int.le_of_eq (by rw [Option.some.inj ho])

theorem LeastLimit.zoneLimit (h : LeastLimit b n d zones base v) (above : ∀ y ∈ zones, y < z) :
    LeastLimit b n d (zones ++ [z]) base (zoneLimit b n d v z) := by
  unfold Machine.zoneLimit
  split
  · next hs => exact h.keep above fun other ho => by simp [hs] at ho
  · next share hs =>
    split
    · next hlt => exact h.lower hs hlt
    · next hge =>
      refine h.keep above fun other ho => ?_
      rw [← Option.some.inj (hs.symm.trans ho)]
      exact Int.not_lt.1 hge

end

/-- The zones that remain, taken in ascending order after those taken, give the least limit of all (R70). -/
theorem LeastLimit.foldl {b : Bulletin} {n : RampNo} {d : Nat} {base : Int × Limiting} (rest : List ZoneNo)
    {taken : List ZoneNo} {v : Int × Limiting} (h : LeastLimit b n d taken base v)
    (asc : (taken ++ rest).Pairwise (· < ·)) :
    LeastLimit b n d (taken ++ rest) base (rest.foldl (Machine.zoneLimit b n d) v) := by
  induction rest generalizing taken v with
  | nil => rwa [List.append_nil]
  | cons z rest ih =>
    have above : ∀ y ∈ taken, y < z := fun y hy => (List.pairwise_append.1 asc).2.2 y hy z List.mem_cons_self
    rw [List.append_cons] at asc ⊢
    exact ih (h.zoneLimit above) asc

theorem LeastLimit.none_taken (b : Bulletin) (n : RampNo) (d : Nat) (base : Int × Limiting) :
    LeastLimit b n d [] base base :=
  ⟨.inl rfl, fun _ hy => absurd hy List.not_mem_nil⟩

theorem Ramp.zonedValue_override {r : Ramp} (h : r.override ≠ none) (b : Bulletin) (n : RampNo) (d : Nat)
    (base : Int × Limiting) : r.zonedValue b n d base = base :=
  if_pos (Option.isSome_iff_ne_none.2 h)

theorem Ramp.zonedValue_least {r : Ramp} (h : r.override = none) (b : Bulletin) (n : RampNo) (d : Nat)
    (base : Int × Limiting) : LeastLimit b n d (List.finRange 6) base (r.zonedValue b n d base) := by
  simp only [Ramp.zonedValue, h, Option.isSome_none, Bool.false_eq_true, if_false]
  exact (LeastLimit.none_taken b n d base).foldl (List.finRange 6) (by decide)

/-! ### The final value (R72, R73) -/

section
variable {lo hi : Nat} {v : Int × Limiting}

theorem finalValue_below (h : v.1 < (lo : Int)) : finalValue lo hi v = (lo, .minimum) := if_pos h

theorem finalValue_above (hl : lo ≤ hi) (h : (hi : Int) < v.1) : finalValue lo hi v = (hi, .maximum) := by
  rw [finalValue, if_neg (by omega), if_pos h]

theorem finalValue_within (hl : (lo : Int) ≤ v.1) (hh : v.1 ≤ (hi : Int)) : finalValue lo hi v = (v.1.toNat, v.2) := by
  rw [finalValue, if_neg (by omega), if_neg (by omega)]

theorem finalValue_range (h : lo ≤ hi) : lo ≤ (finalValue lo hi v).1 ∧ (finalValue lo hi v).1 ≤ hi := by
  by_cases hb : v.1 < (lo : Int)
  · simp [finalValue_below hb, h]
  · by_cases ha : (hi : Int) < v.1
    · simp [finalValue_above h ha, h]
    · rw [finalValue_within (Int.not_lt.1 hb) (Int.not_lt.1 ha)]
      simp only []
      omega

end

theorem Ramp.update_range {r : Ramp} {p : Plan} {eff : Nat} (he : r.effMax = some eff) (hm : p.control.minRate ≤ eff)
    (n : RampNo) (sum : Summary) (b : Bulletin) :
    p.control.minRate ≤ (r.update p n sum b).1 ∧ (r.update p n sum b).1 ≤ eff := by
  simp only [Ramp.update, he, Option.getD_some]
  exact finalValue_range hm

/-- Settles O34: the model's own intermediate values are the witnesses, and the zones taken in ascending order give the least
limit. -/
theorem finalValueInRange : Obligations.FinalValueInRange := by
  refine ⟨fun sum chans => ?_, Bulletin.share_eq, fun r p n sum b eff he hm => ?_, fun lo hi v h => ?_,
    fun r p n sum b eff he hm => Ramp.update_range he hm n sum b⟩
  · simp only [Summary.meanOccupancy_eq]
    exact ⟨fun h => if_pos h, fun h => if_neg h⟩
  · have hl (ho : r.override = none) := Ramp.zonedValue_least ho b n (r.demand p sum)
      (r.baseValue p (sum.meanOccupancy p.layout.mainline))
    refine ⟨r.demand p sum, queueFloor r.q p.queue.target (r.demand p sum) sum.w,
      r.baseValue p (sum.meanOccupancy p.layout.mainline), r.zonedValue b n (r.demand p sum) _, flooredValue _ _, rfl,
      Ramp.baseValue_eq he hm _, fun ho => Ramp.zonedValue_override ho b n _ _,
      fun ho => ⟨(hl ho).source.imp_right ?_, fun y => (hl ho).least y (List.mem_finRange y)⟩, rfl, rfl, ?_⟩
    · rintro ⟨z, -, share, hs, hv, hlt, first⟩
      exact ⟨z, share, hs, hv, hlt, fun y => first y (List.mem_finRange y)⟩
    · simp only [Ramp.update, he, Option.getD_some]
      rfl
  · refine ⟨fun hb => by rw [finalValue_below hb], fun ha => by rw [finalValue_above h ha], fun hl hh => ?_,
      finalValue_range h⟩
    rw [finalValue_within hl hh]
    simp only []
    omega

end Sys2Proof.Machine
end

section
/-! A new interval taken by a FLUSHING ramp, whose green starts may end the flush (R99, R104, R105, R110 to R114). -/

namespace Sys2Proof.Machine

section
variable {s : State} {n : RampNo} {p : Plan}

/-! ### A release with its report, whether or not the flush ends in it -/

/-- The two marks after a report of the empty judgement (R104). -/
theorem State.marks_reportEmpty (hp : (s.ramp n).plan = some p) :
    let t := s.reportEmpty n
    ((t.ramp n).emptyJudged = true ↔ (s.ramp n).emptyJudged = true ∨ t.AllClear n p) ∧
      ((t.ramp n).emptyPending = true ↔
        (s.ramp n).emptyPending = true ∨ t.AllClear n p ∧ ¬ (s.ramp n).emptyJudged = true) := by
  intro t
  have h : EmptyReported s t n p := State.reportEmpty_reported hp
  cases hj : (s.ramp n).emptyJudged with
  | true => simp [h.quiet (.inr hj), hj]
  | false =>
    by_cases hall : t.AllClear n p
    · simp [h.reported hall hj, hall]
    · simp [h.quiet (.inl hall), hj, hall]

/-- What a release on ramp `n`, with the report that may follow it, leaves of the record (R99, R104, R105). -/
structure ReleaseReported (s t : State) (n : RampNo) (p : Plan) : Prop where
  kept : t.ramp n = { s.ramp n with
    state := (t.ramp n).state, q := (t.ramp n).q, emptyJudged := (t.ramp n).emptyJudged
    emptyPending := (t.ramp n).emptyPending }
  q : (t.ramp n).q = (s.ramp n).qAfter p (s.lanesToRelease n p)
  judged : (t.ramp n).emptyJudged = true ↔
    (s.ramp n).emptyJudged = true ∧ s.lanesToRelease n p = [] ∨ t.AllClear n p
  pending : (t.ramp n).emptyPending = true ↔ (s.ramp n).emptyPending = true ∨
    t.AllClear n p ∧ ¬ ((s.ramp n).emptyJudged = true ∧ s.lanesToRelease n p = [])
  stays : ¬ (s.ramp n).flushEnds p (s.lanesToRelease n p) → (t.ramp n).state = (s.ramp n).state
  exits : (s.ramp n).flushEnds p (s.lanesToRelease n p) → (t.ramp n).state = .metering ∧
    Raised t .rampState n.val (.rampState .metering .flushEnded) false ∧ NotLive t .flush n.val

theorem State.release_reported (hp : (s.ramp n).plan = some p) (hc : (s.ramp n).cycling = true) :
    ReleaseReported s ((s.tryRelease n).reportEmpty n) n p := by
  obtain ⟨hnil, he⟩ | ⟨hne, he, hclear⟩ := State.release_cases hp hc
  · have hm := State.marks_reportEmpty hp
    have hr := s.ramp_reportEmpty n
    rw [he]
    have hx : ¬ (s.ramp n).flushEnds p (s.lanesToRelease n p) := fun hx => hx.1 (by rw [hnil]; rfl)
    refine ⟨?_, ?_, by simpa [hnil] using hm.1, by simpa [hnil] using hm.2, fun _ => ?_, fun h => absurd h hx⟩
    · rw [hr]; split <;> rfl
    · rw [hr, hnil]; split <;> rfl
    · rw [hr]; split <;> rfl
  · have hg := State.greenStarts_started hp (s.lanesToRelease_nodup n p)
    rw [he]
    by_cases hx : (s.ramp n).flushEnds p (s.lanesToRelease n p)
    · obtain ⟨hr, hraised, hlive⟩ := hg.exits hx
      exact ⟨by rw [hr], by rw [hr], by simp [hr, hne, hclear], by simp [hr, hclear], fun h => absurd hx h,
        fun _ => ⟨by rw [hr], hraised, hlive⟩⟩
    · have hr := hg.stays hx
      exact ⟨by rw [hr], by rw [hr], by simp [hr, hne, hclear], by simp [hr, hclear], fun _ => by rw [hr],
        fun h => absurd h hx⟩

theorem ReleaseReported.q_le {t : State} (h : ReleaseReported s t n p) : (t.ramp n).q ≤ (s.ramp n).q := by
  rw [h.q]
  exact Nat.sub_le _ _

theorem ReleaseReported.cycling {t : State} (h : ReleaseReported s t n p) (hc : (s.ramp n).cycling = true) :
    (t.ramp n).cycling = true := by
  by_cases hx : (s.ramp n).flushEnds p (s.lanesToRelease n p)
  · simp [Ramp.cycling, (h.exits hx).1]
  · simpa [Ramp.cycling, h.stays hx] using hc

/-! ### The flush after an event -/

/-- Where an event leaves ramp `n` that was FLUSHING: the flush has ended exactly when both conditions of its exit hold (R29, R105,
R106). -/
structure FlushOutcome (t : State) (n : RampNo) (p : Plan) : Prop where
  ends : p.queue.flushHold * 100 ≤ (t.ramp n).contOff ∧ (t.ramp n).q ≤ p.queue.target →
    (t.ramp n).state = .metering ∧ Raised t .rampState n.val (.rampState .metering .flushEnded) false ∧
      NotLive t .flush n.val
  goesOn : ¬ (p.queue.flushHold * 100 ≤ (t.ramp n).contOff ∧ (t.ramp n).q ≤ p.queue.target) →
    (t.ramp n).state = .flushing

theorem State.tryFlushExit_outcome (hp : (s.ramp n).plan = some p) (hf : (s.ramp n).state = .flushing) :
    FlushOutcome (s.tryFlushExit n) n p := by
  have hr := s.ramp_tryFlushExit n
  have hmet := Ramp.flushExitMet_iff hp
  by_cases hx : (s.ramp n).flushExitMet = true
  · rw [if_pos hx] at hr
    obtain ⟨-, hboth⟩ := hmet.1 hx
    exact ⟨fun _ => ⟨by rw [hr], State.tryFlushExit_notices hx⟩, fun h => absurd (by rwa [hr]) h⟩
  · rw [if_neg hx] at hr
    exact ⟨fun h => absurd (hmet.2 ⟨hf, by rwa [hr] at h⟩) hx, fun _ => by rw [hr, hf]⟩

/-- After a release on a FLUSHING ramp the exit is made once: in the release, or after it. -/
theorem ReleaseReported.flushOutcome {t : State} (h : ReleaseReported s t n p) (hp : (s.ramp n).plan = some p)
    (hf : (s.ramp n).state = .flushing) : FlushOutcome (t.tryFlushExit n) n p := by
  by_cases hx : (s.ramp n).flushEnds p (s.lanesToRelease n p)
  · obtain ⟨hst, hraised, hlive⟩ := h.exits hx
    rw [State.tryFlushExit_none (Ramp.flushExitMet_of_state (by simp [hst]))]
    obtain ⟨-, -, hhold, hq⟩ := hx
    have hoff : (t.ramp n).contOff = (s.ramp n).contOff := by rw [h.kept]
    exact ⟨fun _ => ⟨hst, hraised, hlive⟩, fun hno => absurd ⟨hoff ▸ hhold, h.q ▸ hq⟩ hno⟩
  · exact State.tryFlushExit_outcome (by rw [h.kept]; exact hp) ((h.stays hx).trans hf)

/-! ### The interval -/

theorem State.takeInterval_eq (hp : (s.ramp n).plan = some p) (hc : (s.ramp n).cycling = true) :
    s.takeInterval n = ((s.judgeLanes n p p.laneList).tryRelease n).reportEmpty n := by
  simp [State.takeInterval, State.judgeLanes, hp, hc]

theorem State.plan_judgeLanes (hp : (s.ramp n).plan = some p) (q : Plan) :
    ((s.judgeLanes n q q.laneList).ramp n).plan = some p := by
  rw [State.ramp_judgeLanes n q q.laneList_nodup]
  exact hp

theorem State.state_judgeLanes (s : State) (n : RampNo) (p : Plan) :
    ((s.judgeLanes n p p.laneList).ramp n).state = (s.ramp n).state := by
  rw [State.ramp_judgeLanes n p p.laneList_nodup]

theorem State.takeInterval_reported (hp : (s.ramp n).plan = some p) (hc : (s.ramp n).cycling = true) :
    ReleaseReported (s.judgeLanes n p p.laneList) (s.takeInterval n) n p := by
  rw [State.takeInterval_eq hp hc]
  refine State.release_reported (State.plan_judgeLanes hp p) ?_
  rw [Ramp.cycling, State.state_judgeLanes]
  exact hc

/-- The empty judgement's conditions rest on the lanes' heads and on whether they cycle. -/
theorem State.allClear_congr {t : State} (hc : (t.ramp n).cycling = (s.ramp n).cycling)
    (hh : ∀ k, t.head (headOf n k) = s.head (headOf n k)) : t.AllClear n p ↔ s.AllClear n p := by
  simp only [State.AllClear, hh, ← Ramp.cycling_iff, hc]

/-- The lanes of a release rest on the heads and the intervals. -/
theorem State.lanesToRelease_congr {t : State} (hi : (t.ramp n).interval = (s.ramp n).interval)
    (hh : ∀ k, t.head (headOf n k) = s.head (headOf n k)) : t.lanesToRelease n p = s.lanesToRelease n p := by
  have hrel : t.releasable n p = s.releasable n p := by
    funext k
    simp only [State.releasable, State.spaced, hh, hi]
  have hready : t.groupReady n p = s.groupReady n p := by simp only [State.groupReady, hh]
  have hcalled : t.groupCalled n p = s.groupCalled n p := by simp only [State.groupCalled, hh]
  rw [State.lanesToRelease, State.lanesToRelease, hrel, hready, hcalled]

/-- The flush exit writes no more of the record than the state. -/
theorem State.tryFlushExit_kept (s : State) (n : RampNo) :
    (s.tryFlushExit n).ramp n = { s.ramp n with state := ((s.tryFlushExit n).ramp n).state } := by
  rw [State.ramp_tryFlushExit]
  split <;> rfl

theorem State.cycling_tryFlushExit (hc : (s.ramp n).cycling = true) : ((s.tryFlushExit n).ramp n).cycling = true := by
  rw [State.ramp_tryFlushExit]
  split
  · rfl
  · exact hc

/-- A new interval taken by a ramp whose lanes cycle, and the flush exit made after it when it is still due. -/
theorem State.takeInterval_flushExit_taken (hp : (s.ramp n).plan = some p) (hc : (s.ramp n).cycling = true) :
    IntervalTaken s ((s.takeInterval n).tryFlushExit n) n p (s.ramp n).q := by
  have hrel := State.takeInterval_reported hp hc
  have hjr := State.ramp_judgeLanes n p p.laneList_nodup s
  have hjh := State.head_judgeLanes n p p.laneList_nodup s
  have hjc : ((s.judgeLanes n p p.laneList).ramp n).cycling = true := by rw [Ramp.cycling, State.state_judgeLanes]; exact hc
  have hgreen := State.head_release_reported (State.plan_judgeLanes hp p) hjc
  rw [← State.takeInterval_eq hp hc] at hgreen
  generalize s.judgeLanes n p p.laneList = j at *
  generalize s.takeInterval n = v at *
  have hclear : (v.tryFlushExit n).AllClear n p ↔ v.AllClear n p :=
    State.allClear_congr ((State.cycling_tryFlushExit (hrel.cycling hjc)).trans (hrel.cycling hjc).symm) (by simp)
  have hexit := v.tryFlushExit_kept n
  generalize ((v.tryFlushExit n).ramp n).state = st at hexit
  have hint : ((v.tryFlushExit n).ramp n).interval = (s.ramp n).interval := by rw [hexit, hrel.kept, hjr]; rfl
  have hl : (j.modRamp n fun r => { r with state := st }).lanesToRelease n p = j.lanesToRelease n p :=
    State.lanesToRelease_congr (by rw [State.ramp_modRamp_same]; rfl) (by simp)
  refine ⟨j.modRamp n fun r => { r with state := st }, ?_, fun k hk => ?_, fun k hk => ?_, ?_, ?_, ?_, fun k => ?_⟩
  · rw [hint, hexit, hrel.kept, State.ramp_modRamp_same, hjr]
  · rw [hint, State.modRamp_head, hjh, if_pos hk]
    exact Head.judged_compared _ _ _
  · rw [State.modRamp_head, hjh, if_neg hk]
  · rw [hl, hexit, State.ramp_modRamp_same]
    exact hrel.q
  · rw [hl, hclear, hexit, State.ramp_modRamp_same]
    exact hrel.judged
  · have hpend : (j.ramp n).emptyPending = (s.ramp n).emptyPending := by rw [hjr]
    rw [hl, hclear, hexit, State.ramp_modRamp_same, ← hpend]
    exact hrel.pending
  · rw [hl, State.head_tryFlushExit, State.modRamp_head]
    exact hgreen k

end

end Sys2Proof.Machine
end

section
/-! A bulletin at one ramp, at every ramp, and BULLETIN ARRIVAL (R18, R29, R61, R62, R74, R75, R105, log 54). -/

namespace Sys2Proof.Machine

/-! ### What a bulletin at another ramp leaves of a ramp -/

/-- Ramp `n`, its heads and what is said of its RAMP STATE and FLUSH notices are in `t` as in `s`. -/
structure SameRamp (n : RampNo) (s t : State) : Prop where
  ramp : t.ramp n = s.ramp n
  heads : ∀ k, t.head (headOf n k) = s.head (headOf n k)
  states : Untouched .rampState n.val s t
  flush : Untouched .flush n.val s t

theorem SameRamp.refl (n : RampNo) (s : State) : SameRamp n s s :=
  ⟨rfl, fun _ => rfl, Untouched.refl _ _ s, Untouched.refl _ _ s⟩

theorem SameRamp.trans {n : RampNo} {s t u : State} (h : SameRamp n s t) (g : SameRamp n t u) : SameRamp n s u :=
  ⟨g.ramp.trans h.ramp, fun k => (g.heads k).trans (h.heads k), h.states.trans g.states, h.flush.trans g.flush⟩

theorem IntervalTaken.of_same {s t u : State} {n : RampNo} {p : Plan} {q : Nat} (h : IntervalTaken s t n p q)
    (e : SameRamp n t u) : IntervalTaken s u n p q := by
  have hclear : u.AllClear n p ↔ t.AllClear n p := State.allClear_congr (by rw [e.ramp]) e.heads
  unfold IntervalTaken at h ⊢
  simpa only [e.ramp, e.heads, hclear] using h

theorem FlushOutcome.of_same {t u : State} {n : RampNo} {p : Plan} (h : FlushOutcome t n p) (e : SameRamp n t u) :
    FlushOutcome u n p where
  ends hb := by
    rw [e.ramp] at hb ⊢
    obtain ⟨hst, hraised, hlive⟩ := h.ends hb
    exact ⟨hst, e.states.1 _ _ hraised, e.flush.2 hlive⟩
  goesOn hb := by
    rw [e.ramp] at hb ⊢
    exact h.goesOn hb

theorem untouched_reportEmpty (s : State) (k : NoticeKind) (i : Nat) (n : RampNo) : Untouched k i s (s.reportEmpty n) :=
  untouched_of_sets (fun l => by simp) k i

section
variable {k : NoticeKind} {i : Nat} {n : RampNo} (nl : k ≠ .lamp) (nr : ¬(k = .rampState ∧ i = n.val))
  (nf : ¬(k = .flush ∧ i = n.val))
include nr nf

theorem untouched_tryFlushExit (s : State) : Untouched k i s (s.tryFlushExit n) := by
  unfold State.tryFlushExit
  split
  · exact ((untouched_modRamp s k i n _).trans (untouched_rampNotice _ _ nr)).trans (untouched_liveClear _ nf)
  · exact Untouched.refl k i s

theorem untouched_takeGreenStart (s : State) (j : LaneNo) : Untouched k i s (s.takeGreenStart n j) := by
  unfold State.takeGreenStart
  repeat' split
  · exact Untouched.refl k i s
  · exact Untouched.refl k i s
  · exact (untouched_modRamp s k i n _).trans (untouched_tryFlushExit nr nf _)

include nl

theorem untouched_greenStarts (s : State) (lanes : List LaneNo) : Untouched k i s (s.greenStarts n lanes) :=
  ((untouched_modRamp s k i n _).trans (untouched_eachLane (fun _ t => untouched_writeHead t i nl _ _) lanes _)).trans
    (untouched_eachLane (fun j t => untouched_takeGreenStart nr nf t j) lanes _)

theorem untouched_tryRelease (s : State) : Untouched k i s (s.tryRelease n) := by
  unfold State.tryRelease
  repeat' split
  · exact Untouched.refl k i s
  · exact untouched_greenStarts nl nr nf s _
  · exact Untouched.refl k i s

theorem untouched_takeInterval (s : State) : Untouched k i s (s.takeInterval n) := by
  unfold State.takeInterval
  repeat' split
  · exact Untouched.refl k i s
  · exact ((untouched_eachLane (fun j t => untouched_judgeLane t i nl n _ j) _ s).trans
      (untouched_tryRelease nl nr nf _)).trans (untouched_reportEmpty _ k i n)
  · exact Untouched.refl k i s

end

/-! ### A bulletin at one ramp -/

section
variable {s : State} {n : RampNo} {p : Plan} (sum : Summary) (b : Bulletin)

theorem State.bulletinAt_metering (h : (s.ramp n).state = .metering) :
    s.bulletinAt n sum b = (s.modRamp n fun r => r.bulletinMetering n sum b).takeInterval n := by
  simp [State.bulletinAt, h]

theorem State.bulletinAt_flushing (h : (s.ramp n).state = .flushing) (ha : (s.ramp n).amendment = none) :
    s.bulletinAt n sum b = (s.modRamp n fun r => r.bulletinFlushing n sum b).tryFlushExit n := by
  simp [State.bulletinAt, h, ha]

theorem State.bulletinAt_amended {a : Amendment} (h : (s.ramp n).state = .flushing) (ha : (s.ramp n).amendment = some a) :
    s.bulletinAt n sum b = ((s.modRamp n fun r => r.bulletinFlushing n sum b).takeInterval n).tryFlushExit n := by
  simp [State.bulletinAt, h, ha]

theorem State.bulletinAt_still (hm : (s.ramp n).state ≠ .metering) (hf : (s.ramp n).state ≠ .flushing) :
    s.bulletinAt n sum b = s := by
  unfold State.bulletinAt
  split
  case h_1 h => exact absurd h hm
  case h_2 h => exact absurd h hf
  all_goals rfl

/-- What a change of the record, a new interval and a flush exit keep, a bulletin keeps. -/
theorem State.bulletinAt_induct {P : State → Prop} (hr : ∀ t f, P t → P (t.modRamp n f))
    (hi : ∀ t, P t → P (t.takeInterval n)) (hx : ∀ t, P t → P (t.tryFlushExit n)) (hs : P s) :
    P (s.bulletinAt n sum b) := by
  unfold State.bulletinAt
  split
  case h_1 => exact hi _ (hr _ _ hs)
  case h_2 =>
    refine hx _ ?_
    split
    · exact hi _ (hr _ _ hs)
    · exact hr _ _ hs
  all_goals exact hs

theorem State.bulletinAt_rampOnly (s : State) (n : RampNo) : RampOnly n s (s.bulletinAt n sum b) :=
  State.bulletinAt_induct sum b (P := RampOnly n s) (fun t f h => h.trans (t.modRamp_rampOnly n f))
    (fun t h => h.trans (t.takeInterval_rampOnly n)) (fun t h => h.trans (t.tryFlushExit_rampOnly n)) (RampOnly.refl n s)

theorem untouched_bulletinAt {k : NoticeKind} {i : Nat} (nl : k ≠ .lamp) (nr : ¬(k = .rampState ∧ i = n.val))
    (nf : ¬(k = .flush ∧ i = n.val)) (s : State) : Untouched k i s (s.bulletinAt n sum b) :=
  State.bulletinAt_induct sum b (P := Untouched k i s) (fun t f h => h.trans (untouched_modRamp t k i n f))
    (fun t h => h.trans (untouched_takeInterval nl nr nf t)) (fun t h => h.trans (untouched_tryFlushExit nr nf t))
    (Untouched.refl k i s)

/-- A bulletin at ramp `m` leaves every other ramp as it was. -/
theorem State.bulletinAt_sameRamp (s : State) {m : RampNo} (ne : m ≠ n) : SameRamp n s (s.bulletinAt m sum b) := by
  have ho := (s.bulletinAt_rampOnly sum b m).1
  have hv : n.val ≠ m.val := fun e => ne (Fin.ext e.symm)
  exact ⟨ho.ramps n ne.symm, fun k => ho.heads _ (by simpa using ne.symm),
    untouched_bulletinAt sum b (by simp) (by simp [hv]) (by simp) s,
    untouched_bulletinAt sum b (by simp) (by simp) (by simp [hv]) s⟩

/-! ### The record of the ramp -/

theorem Ramp.bulletinMetering_eq {r : Ramp} (hp : r.installAmendment.plan = some p) :
    r.bulletinMetering n sum b = r.installAmendment.updateMetering p n sum b := by
  simp [Ramp.bulletinMetering, hp]

theorem Ramp.bulletinFlushing_eq {r : Ramp} (ha : r.amendment = none) (hp : r.plan = some p) :
    r.bulletinFlushing n sum b = r.updateFlushing p n sum b := by
  simp [Ramp.bulletinFlushing, Ramp.installFlushing, ha, hp]

/-- An amendment is installed before the update of a FLUSHING ramp, with the new effective max rate as applied rate (R18). -/
theorem Ramp.bulletinFlushing_amended {r : Ramp} {a : Amendment} (ha : r.amendment = some a) (hp : r.plan = some p) :
    r.bulletinFlushing n sum b =
      (r.installAmendment.flushRates (p.amended a)).updateFlushing (p.amended a) n sum b := by
  have hi : r.installAmendment.plan = some (p.amended a) := by simp [Ramp.installAmendment, ha, hp]
  simp [Ramp.bulletinFlushing, Ramp.installFlushing, ha, hi, Ramp.flushRates, Ramp.writeApplied]

/-- A ramp without a plan has none after a bulletin's installations. -/
theorem Ramp.bulletinFlushing_unplanned {r : Ramp} (hp : r.plan = none) : (r.bulletinFlushing n sum b).plan = none := by
  have hi : r.installAmendment.plan = none := by
    unfold Ramp.installAmendment
    cases r.amendment <;> simp [hp]
  have hf : r.installFlushing.plan = none := by
    unfold Ramp.installFlushing
    split <;> simp [hp, hi]
  simp [Ramp.bulletinFlushing, hf, hp]

/-! ### What a bulletin leaves of the ramp -/

/-- METERING: the update's record, with what the release under its interval takes off Q (R18, R74). -/
theorem State.bulletinAt_metered (hst : (s.ramp n).state = .metering) (hp : (s.ramp n).installAmendment.plan = some p) :
    ((s.ramp n).installAmendment.updateMetering p n sum b).Released ((s.bulletinAt n sum b).ramp n) ∧
      IntervalTaken s (s.bulletinAt n sum b) n p (s.ramp n).q := by
  rw [State.bulletinAt_metering sum b hst]
  generalize hw : (s.modRamp n fun r => r.bulletinMetering n sum b) = w
  have hr : w.ramp n = (s.ramp n).installAmendment.updateMetering p n sum b := by
    rw [← hw, State.ramp_modRamp_same, Ramp.bulletinMetering_eq sum b hp]
  have hwst : (w.ramp n).state = .metering := by
    rw [hr]
    exact (Ramp.installAmendment_state _).trans hst
  have hx := Ramp.noExit_of_metering hwst
  have ht := State.takeInterval_taken (by rw [hr]; exact hp) ((w.ramp n).cycling_iff.2 (.inl hwst)) hx
  have hq : (w.ramp n).q = (s.ramp n).q := by rw [hr]; exact Ramp.installAmendment_q _
  rw [hq] at ht
  refine ⟨hr ▸ (State.takeInterval_release hx).ramp, ht.of_marks ?_ ?_ fun k => by simp [← hw]⟩
  · rw [hr, Ramp.installAmendment_eq]; rfl
  · rw [hr, Ramp.installAmendment_eq]; rfl

/-- FLUSHING with no amendment: the computed rate alone, and the exit that was due (R75, log 46). -/
theorem State.bulletinAt_flushed (hst : (s.ramp n).state = .flushing) (ha : (s.ramp n).amendment = none)
    (hp : (s.ramp n).plan = some p) :
    (s.bulletinAt n sum b).ramp n =
        { (s.ramp n).updateFlushing p n sum b with state := ((s.bulletinAt n sum b).ramp n).state } ∧
      FlushOutcome (s.bulletinAt n sum b) n p := by
  rw [State.bulletinAt_flushing sum b hst ha]
  generalize hw : (s.modRamp n fun r => r.bulletinFlushing n sum b) = w
  have hr : w.ramp n = (s.ramp n).updateFlushing p n sum b := by
    rw [← hw, State.ramp_modRamp_same, Ramp.bulletinFlushing_eq sum b ha hp]
  exact ⟨hr ▸ w.tryFlushExit_kept n, State.tryFlushExit_outcome (by rw [hr]; exact hp) (by rw [hr]; exact hst)⟩

/-- FLUSHING with an amendment: installed, then the computed rate alone; the new interval is taken, and the flush may end (R18, R75,
R105, log 54). -/
theorem State.bulletinAt_flushAmended {a : Amendment} (hst : (s.ramp n).state = .flushing)
    (ha : (s.ramp n).amendment = some a) (hp : (s.ramp n).plan = some p) :
    let t := s.bulletinAt n sum b
    t.ramp n = { ((s.ramp n).installAmendment.flushRates (p.amended a)).updateFlushing (p.amended a) n sum b with
        state := (t.ramp n).state, q := (t.ramp n).q, emptyJudged := (t.ramp n).emptyJudged
        emptyPending := (t.ramp n).emptyPending } ∧
      (t.ramp n).q ≤ (s.ramp n).q ∧ IntervalTaken s t n (p.amended a) (s.ramp n).q ∧ FlushOutcome t n (p.amended a) := by
  simp only [State.bulletinAt_amended sum b hst ha]
  generalize hw : (s.modRamp n fun r => r.bulletinFlushing n sum b) = w
  have hr : w.ramp n = ((s.ramp n).installAmendment.flushRates (p.amended a)).updateFlushing (p.amended a) n sum b := by
    rw [← hw, State.ramp_modRamp_same, Ramp.bulletinFlushing_amended sum b ha hp]
  have hi : (s.ramp n).installAmendment.plan = some (p.amended a) := by simp [Ramp.installAmendment, ha, hp]
  have hplan : (w.ramp n).plan = some (p.amended a) := by rw [hr]; exact hi
  have hwst : (w.ramp n).state = .flushing := by rw [hr]; exact (Ramp.installAmendment_state _).trans hst
  have hc := (w.ramp n).cycling_iff.2 (.inr hwst)
  have hq : (w.ramp n).q = (s.ramp n).q := by rw [hr]; exact Ramp.installAmendment_q _
  have hjr := State.ramp_judgeLanes n (p.amended a) (p.amended a).laneList_nodup w
  have hrel := State.takeInterval_reported hplan hc
  have hexit := (w.takeInterval n).tryFlushExit_kept n
  have ht := State.takeInterval_flushExit_taken hplan hc
  rw [hq] at ht
  refine ⟨?_, ?_, ht.of_marks ?_ ?_ fun k => by simp [← hw],
    hrel.flushOutcome (State.plan_judgeLanes hplan _) ((State.state_judgeLanes w n _).trans hwst)⟩
  · rw [hexit, hrel.kept, hjr, hr]
  · rw [hexit, ← hq]
    have hle := hrel.q_le
    rwa [hjr] at hle
  · rw [hr, Ramp.installAmendment_eq]; rfl
  · rw [hr, Ramp.installAmendment_eq]; rfl

theorem State.bulletinAt_unplanned (hst : (s.ramp n).state = .flushing) (hp : (s.ramp n).plan = none) :
    ((s.bulletinAt n sum b).ramp n).plan = none := by
  generalize hw : (s.modRamp n fun r => r.bulletinFlushing n sum b) = w
  have hr : (w.ramp n).plan = none := by
    rw [← hw, State.ramp_modRamp_same]
    exact Ramp.bulletinFlushing_unplanned sum b hp
  cases ha : (s.ramp n).amendment with
  | none =>
    rw [State.bulletinAt_flushing sum b hst ha, hw, State.tryFlushExit_kept]
    exact hr
  | some a =>
    have hi : w.takeInterval n = w := by simp [State.takeInterval, hr]
    rw [State.bulletinAt_amended sum b hst ha, hw, hi, State.tryFlushExit_kept]
    exact hr

/-- No lane of a FLUSHING ramp moves at a bulletin that brings no new interval. -/
theorem State.head_bulletinAt (hm : (s.ramp n).state ≠ .metering)
    (hf : (s.ramp n).state = .flushing → (s.ramp n).amendment = none) (h : HeadNo) :
    (s.bulletinAt n sum b).head h = s.head h := by
  by_cases hst : (s.ramp n).state = .flushing
  · simp [State.bulletinAt_flushing sum b hst (hf hst)]
  · rw [State.bulletinAt_still sum b hm hst]

end

/-! ### A bulletin at every ramp -/

/-- In `t` ramp `n` is as the bulletin leaves it, taken from a state that has the ramp as `s` has it. -/
def TookBulletin (n : RampNo) (sum : Summary) (b : Bulletin) (s t : State) : Prop :=
  ∃ w, SameRamp n s w ∧ SameRamp n (w.bulletinAt n sum b) t

/-- The bulletin taken off those in transit is taken by each ramp as it was. -/
theorem State.takeBulletin_took (s : State) (rest : List (Summary × Bulletin)) (sum : Summary) (b : Bulletin) (n : RampNo) :
    TookBulletin n sum b s (({ s with transit := rest } : State).takeBulletin sum b) := by
  have hs : SameRamp n s { s with transit := rest } :=
    ⟨rfl, fun _ => rfl, untouched_of_sets (fun l => by cases l <;> rfl) _ _,
      untouched_of_sets (fun l => by cases l <;> rfl) _ _⟩
  exact State.eachRamp_brings (P := SameRamp n s) (Q := TookBulletin n sum b s) n
    (fun _ ne t h => h.trans (t.bulletinAt_sameRamp sum b ne)) (fun t h => ⟨t, h, SameRamp.refl n _⟩)
    (fun _ ne t ⟨w, hw, ht⟩ => ⟨w, hw, ht.trans (t.bulletinAt_sameRamp sum b ne)⟩) hs

section
variable {s t : State} {n : RampNo} {p : Plan} {sum : Summary} {b : Bulletin}

/-- What is said of a new interval passes between states that have the ramp the same, before and after. -/
theorem IntervalTaken.between {w v : State} {q : Nat} (h : IntervalTaken w v n p q) (e : SameRamp n s w)
    (f : SameRamp n v t) : IntervalTaken s t n p q :=
  (h.of_same f).of_marks (by rw [e.ramp]) (by rw [e.ramp]) e.heads

theorem TookBulletin.metered (h : TookBulletin n sum b s t) (hst : (s.ramp n).state = .metering)
    (hp : (s.ramp n).installAmendment.plan = some p) :
    ((s.ramp n).installAmendment.updateMetering p n sum b).Released (t.ramp n) ∧ IntervalTaken s t n p (s.ramp n).q := by
  obtain ⟨w, hw, ht⟩ := h
  rw [← hw.ramp] at hst hp ⊢
  obtain ⟨hrec, hint⟩ := w.bulletinAt_metered sum b hst hp
  exact ⟨ht.ramp ▸ hrec, hint.between hw ht⟩

theorem TookBulletin.flushed (h : TookBulletin n sum b s t) (hst : (s.ramp n).state = .flushing)
    (ha : (s.ramp n).amendment = none) (hp : (s.ramp n).plan = some p) :
    t.ramp n = { (s.ramp n).updateFlushing p n sum b with state := (t.ramp n).state } ∧ FlushOutcome t n p := by
  obtain ⟨w, hw, ht⟩ := h
  rw [← hw.ramp] at hst ha hp ⊢
  obtain ⟨hrec, hout⟩ := w.bulletinAt_flushed sum b hst ha hp
  exact ⟨ht.ramp ▸ hrec, hout.of_same ht⟩

theorem TookBulletin.flushAmended {a : Amendment} (h : TookBulletin n sum b s t) (hst : (s.ramp n).state = .flushing)
    (ha : (s.ramp n).amendment = some a) (hp : (s.ramp n).plan = some p) :
    t.ramp n = { ((s.ramp n).installAmendment.flushRates (p.amended a)).updateFlushing (p.amended a) n sum b with
        state := (t.ramp n).state, q := (t.ramp n).q, emptyJudged := (t.ramp n).emptyJudged
        emptyPending := (t.ramp n).emptyPending } ∧
      (t.ramp n).q ≤ (s.ramp n).q ∧ IntervalTaken s t n (p.amended a) (s.ramp n).q ∧ FlushOutcome t n (p.amended a) := by
  obtain ⟨w, hw, ht⟩ := h
  rw [← hw.ramp] at hst ha hp ⊢
  obtain ⟨hrec, hq, hint, hout⟩ := w.bulletinAt_flushAmended sum b hst ha hp
  exact ⟨ht.ramp ▸ hrec, ht.ramp ▸ hq, hint.between hw ht, hout.of_same ht⟩

/-- The flush of a ramp that was FLUSHING, whatever the bulletin brought to it. -/
theorem TookBulletin.flushOutcome (h : TookBulletin n sum b s t) (hst : (s.ramp n).state = .flushing)
    (hp : (t.ramp n).plan = some p) : FlushOutcome t n p ∧ (t.ramp n).contOff = (s.ramp n).contOff := by
  cases hs : (s.ramp n).plan with
  | none =>
    obtain ⟨w, hw, ht⟩ := h
    rw [← hw.ramp] at hst hs
    simp [ht.ramp, w.bulletinAt_unplanned sum b hst hs] at hp
  | some p' =>
    cases ha : (s.ramp n).amendment with
    | none =>
      obtain ⟨hrec, hout⟩ := h.flushed hst ha hs
      have hplan : (t.ramp n).plan = some p' := by rw [hrec]; exact hs
      rw [← Option.some.inj (hplan.symm.trans hp)]
      exact ⟨hout, by rw [hrec]; rfl⟩
    | some a =>
      obtain ⟨hrec, -, -, hout⟩ := h.flushAmended hst ha hs
      have hplan : (t.ramp n).plan = some (p'.amended a) := by
        rw [hrec]
        simp [Ramp.updateFlushing, Ramp.flushRates, Ramp.writeApplied, Ramp.installAmendment, ha, hs]
      rw [← Option.some.inj (hplan.symm.trans hp)]
      exact ⟨hout, by rw [hrec]; exact Ramp.installAmendment_contOff _⟩

theorem TookBulletin.still (h : TookBulletin n sum b s t) (hm : (s.ramp n).state ≠ .metering)
    (hf : (s.ramp n).state ≠ .flushing) : t.ramp n = s.ramp n := by
  obtain ⟨w, hw, ht⟩ := h
  rw [← hw.ramp] at hm hf ⊢
  rw [ht.ramp, w.bulletinAt_still sum b hm hf]

theorem TookBulletin.head {g : HeadNo} (h : TookBulletin (headRamp g) sum b s t)
    (hm : (s.ramp (headRamp g)).state ≠ .metering)
    (hf : (s.ramp (headRamp g)).state = .flushing → (s.ramp (headRamp g)).amendment = none) : t.head g = s.head g := by
  obtain ⟨w, hw, ht⟩ := h
  rw [← hw.ramp] at hm hf
  have hg := (ht.heads (headLane g)).trans ((w.head_bulletinAt sum b hm hf _).trans (hw.heads (headLane g)))
  rwa [headOf_parts] at hg

end

/-! ### The event -/

theorem exec_bulletinArrival {s : State} {sum : Summary} {b : Bulletin} {rest : List (Summary × Bulletin)}
    (hr : s.resetHeld = false) (ht : s.transit = (sum, b) :: rest) :
    exec .bulletinArrival s = .next (({ s with transit := rest } : State).takeBulletin sum b) := by
  change execBulletinArrival s = _
  rw [execBulletinArrival, State.running_up hr, ht]

/-- Settles O33: what the bulletin at each ramp leaves, read off its record. -/
theorem bulletinTaken : Obligations.BulletinTaken := by
  intro s sum b rest hr htr
  obtain ⟨hsame, hchans, hzones, hsets⟩ :=
    State.eachRamp_rest (fun n t => t.bulletinAt_rampOnly sum b n) ({ s with transit := rest } : State)
  have htook := s.takeBulletin_took rest sum b
  refine ⟨_, exec_bulletinArrival hr htr, hsame.transit, fun n p hst hp => ?_, fun n p hst ha hp => ?_,
    fun n a p hst ha hp => ?_, fun n p hst hp => ?_, fun n => (htook n).still, fun g => (htook _).head, hchans, hzones,
    hsame.bulletin, hsame.slots, hsame.stage, hsame.settings, hsets⟩
  all_goals
    have h := htook n
    generalize ({ s with transit := rest } : State).takeBulletin sum b = t at *
  · obtain ⟨hrec, hint⟩ := h.metered hst hp
    rw [hrec.same]
    exact ⟨(Ramp.installAmendment_state _).trans hst, Ramp.installAmendment_amendment _, hp, rfl, rfl, rfl, rfl, rfl, hint⟩
  · obtain ⟨hrec, -⟩ := h.flushed hst ha hp
    rw [hrec]
    exact ⟨rfl, rfl, rfl, rfl, rfl, hp, rfl⟩
  · obtain ⟨hrec, hq, hint, -⟩ := h.flushAmended hst ha hp
    have hi : (s.ramp n).installAmendment = { s.ramp n with
        plan := some (p.amended a), effMax := some a.effMax, trimmed := mergeMarks (s.ramp n).trimmed a.marks
        amendment := none } := by
      simp [Ramp.installAmendment, ha, hp]
    rw [hi] at hrec ⊢
    rw [hrec]
    exact ⟨rfl, rfl, rfl, rfl, rfl, rfl, rfl, rfl, rfl, hq, hint⟩
  · obtain ⟨hout, hoff⟩ := h.flushOutcome hst hp
    rw [← hoff]
    exact ⟨hout.ends, hout.goesOn⟩

end Sys2Proof.Machine
end

section
/-! The zone commands (R80 to R85): each block's checks in their order, and what it does when every one is passed. -/

namespace Sys2Proof.Machine

/-! ### A block's checks in order -/

/-- A block's answer `r` in state `u` by its checks: the first that fails refuses and changes nothing, and `passed` holds of it
when none does. -/
def RefusesFirst (u : State) (r : State × Reply) : List (Prop × Status) → (State × Reply → Prop) → Prop
  | [], passed => passed r
  | (check, st) :: rest, passed => (¬ check → r = (u, .refuse st)) ∧ (check → RefusesFirst u r rest passed)

/-- One check written as the block writes it: a test that refuses, before the rest. -/
theorem RefusesFirst.ite {u : State} {r : State × Reply} {fails check : Prop} [Decidable fails] {st : Status}
    {rest : List (Prop × Status)} {passed : State × Reply → Prop} (test : fails ↔ ¬ check) (h : RefusesFirst u r rest passed) :
    RefusesFirst u (if fails then (u, .refuse st) else r) ((check, st) :: rest) passed := by
  refine ⟨fun hc => if_pos (test.2 hc), fun hc => ?_⟩
  rw [if_neg fun hf => test.1 hf hc]
  exact h

/-- The checks of a command are those of its block in the state that the frame left. -/
theorem RefusesFirst.framed {c : Instr} {s : State} {l : Link} {code : Byte} {run : State → State × Reply}
    (hc : exec c s = .next (s.frame l code run)) (ht : s.takes l) {checks : List (Prop × Status)}
    {taken : State × Reply → Prop} {passed : Prop}
    (h : RefusesFirst (s.goodFrame l) (run (s.goodFrame l)) checks taken) (hp : taken (run (s.goodFrame l)) → passed) :
    FirstRefusal c s l code checks passed := by
  induction checks with
  | nil => exact hp h
  | cons check rest ih =>
    obtain ⟨fails, goesOn⟩ := h
    exact ⟨fun hn => ⟨_, hc, State.frame_refused ht (fails hn)⟩, fun hk => ih (goesOn hk)⟩

theorem exec_zoneDefine (l : Link) (a : ZoneDefineArgs) (s : State) :
    exec (.zoneDefine l a) s = .next (s.frame l 0x20 fun t => t.zoneDefine l a) := rfl

theorem exec_zoneAmend (l : Link) (a : ZoneAmendArgs) (s : State) :
    exec (.zoneAmend l a) s = .next (s.frame l 0x21 fun t => t.zoneAmend l a) := rfl

theorem exec_zoneDissolve (l : Link) (zone : Byte) (s : State) :
    exec (.zoneDissolve l zone) s = .next (s.frame l 0x22 fun t => t.zoneDissolve l zone) := rfl

/-! ### What the checks read -/

theorem State.zoneCount_goodFrame (s : State) (l : Link) (n : RampNo) : (s.goodFrame l).zoneCount n = s.zoneCount n := by
  simp [State.zoneCount]

theorem length_of_allArgs {α β : Type} {f : α → Option β} {args : List α} {vals : List β} (h : allArgs f args = some vals) :
    vals.length = args.length := by
  induction args generalizing vals with
  | nil => cases h; rfl
  | cons a rest ih =>
    unfold allArgs at h
    split at h
    · next hr => cases h; simp [ih hr]
    · cases h

theorem Zone.allows_iff (z : Zone) (l : Link) : z.allows l = true ↔ ∀ k, k ≠ l → z.owner ≠ some k := by
  unfold Zone.allows
  cases z.owner with
  | none => simp
  | some o =>
    simp only [decide_eq_true_eq, ne_eq, Option.some.injEq]
    exact ⟨fun e k hk ho => hk (ho ▸ e), fun h => Classical.byContradiction fun hne => h o hne rfl⟩

theorem ocInRange_iff (v : Nat) : ocInRange v = true ↔ 50 ≤ v ∧ v ≤ 600 := by simp [ocInRange]

theorem gzInRange_iff (v : Nat) : gzInRange v = true ↔ 1 ≤ v ∧ v ≤ 255 := by simp [gzInRange]

theorem rmaxInRange_iff (v : Nat) : rmaxInRange v = true ↔ v ≤ 3000 := by simp [rmaxInRange]

theorem State.detectorFree_iff (s : State) (c : Chan) :
    s.detectorFree c = true ↔ (s.chan c).kind = none ∨ (s.chan c).kind = some .mainline := by simp [State.detectorFree]

/-- The tests over a list of ramps that checks 9 and 10 of R80, and 7 and 9 of R83, make. -/
theorem State.anyVacant_iff (s : State) (ramps : List (RampNo × Nat)) :
    (ramps.any fun m => s.rampVacant m.1) = true ↔ ¬ ∀ m ∈ ramps, (s.ramp m.1).state ≠ .vacant := by
  simp [State.rampVacant]

theorem State.anyFull_iff (s : State) (ramps : List (RampNo × Nat)) :
    (ramps.any fun m => decide (3 < s.zoneCount m.1 + 1)) = true ↔ ¬ ∀ m ∈ ramps, s.zoneCount m.1 + 1 ≤ 3 := by
  simp only [List.any_eq_true, decide_eq_true_eq, Classical.not_forall, Nat.not_le, exists_prop]

/-! ### ZONE DEFINE (R80, R81) -/

section
variable {u : State} {l : Link} {z : ZoneNo}

/-- Checks 1 to 5 of R80 at the block: the arguments that pass them go on to `defineChecked`. -/
theorem State.zoneDefine_checks {a : ZoneDefineArgs} (hz : zoneArg a.zone = some z) :
    RefusesFirst u (u.zoneDefine l a)
      [((u.zone z).state = .vacant, .state),
        (1 ≤ a.detectors.length ∧ a.detectors.length ≤ 4 ∧ allArgs chanArg a.detectors ≠ none, .range),
        (50 ≤ a.oc.toNat ∧ a.oc.toNat ≤ 600 ∧ 1 ≤ a.gz.toNat ∧ a.gz.toNat ≤ 255 ∧ a.rmax.toNat ≤ 3000, .range),
        (a.members.length ≤ 6 ∧ allArgs memberArg a.members ≠ none, .range)]
      (fun r => ∀ dets members, allArgs chanArg a.detectors = some dets → allArgs memberArg a.members = some members →
        r = u.defineChecked l z dets a.oc.toNat a.gz.toNat a.rmax.toNat members) := by
  unfold State.zoneDefine
  simp only [hz]
  refine RefusesFirst.ite Iff.rfl ?_
  cases hd : allArgs chanArg a.detectors with
  | none => simp [RefusesFirst]
  | some dets =>
    cases hm : allArgs memberArg a.members with
    | none => simp [RefusesFirst]
    | some members =>
      have test (nd nm : Nat) : (nd < 1 ∨ 4 < nd ∨ (!ocInRange a.oc.toNat) = true ∨ (!gzInRange a.gz.toNat) = true ∨
          (!rmaxInRange a.rmax.toNat) = true ∨ 6 < nm) ↔
          ¬ ((1 ≤ nd ∧ nd ≤ 4) ∧ (50 ≤ a.oc.toNat ∧ a.oc.toNat ≤ 600 ∧ 1 ≤ a.gz.toNat ∧ a.gz.toNat ≤ 255 ∧
            a.rmax.toNat ≤ 3000) ∧ nm ≤ 6) := by
        simp only [Bool.not_eq_true', ← Bool.not_eq_true, ocInRange_iff, gzInRange_iff, rmaxInRange_iff]
        omega
      simp only [length_of_allArgs hd, length_of_allArgs hm]
      refine ⟨fun h => if_pos ((test _ _).2 ?_), fun h => ⟨fun h' => if_pos ((test _ _).2 ?_), fun h' =>
        ⟨fun h'' => if_pos ((test _ _).2 ?_), fun h'' => ?_⟩⟩⟩
      · exact fun ⟨hd, _⟩ => h ⟨hd.1, hd.2, nofun⟩
      · exact fun ⟨_, hp, _⟩ => h' hp
      · exact fun ⟨_, _, hm⟩ => h'' ⟨hm, nofun⟩
      · rintro _ _ ⟨⟩ ⟨⟩
        exact if_neg fun ht => (test _ _).1 ht ⟨⟨h.1, h.2.1⟩, h', h''.1⟩

/-- Checks 6 to 10 of R80 at the block. -/
theorem State.defineChecked_checks (dets : List Chan) (oc gz rmax : Nat) (members : List (RampNo × Nat)) :
    RefusesFirst u (u.defineChecked l z dets oc gz rmax members)
      [(noRepeat dets = true, .conflict),
        (∀ c ∈ dets, (u.chan c).kind = none ∨ (u.chan c).kind = some .mainline, .conflict),
        (noRepeat (members.map (·.1)) = true, .conflict),
        (∀ m ∈ members, (u.ramp m.1).state ≠ .vacant, .absent),
        (∀ m ∈ members, u.zoneCount m.1 + 1 ≤ 3, .conflict)]
      (· = (u.defineZone z (Zone.defined l dets oc gz rmax members), .done)) := by
  unfold State.defineChecked
  exact .ite (by simp) (.ite (by simp [State.detectorFree_iff]) (.ite (by simp) (.ite (u.anyVacant_iff _)
    (.ite (u.anyFull_iff _) rfl))))

end

@[simp] theorem Zone.defined_detectors (l : Link) (dets : List Chan) (oc gz rmax : Nat) (members : List (RampNo × Nat)) :
    (Zone.defined l dets oc gz rmax members).detectors = dets := rfl

@[simp] theorem Zone.defined_members (l : Link) (dets : List Chan) (oc gz rmax : Nat) (members : List (RampNo × Nat)) :
    (Zone.defined l dets oc gz rmax members).members = members := rfl

/-- The references that a definition adds, in the words of the statement. -/
theorem detectorRefs_eq (z : ZoneNo) (dets : List Chan) (c : Chan) :
    (((dets.map (·, Kind.mainline)).filter fun p => decide (p.1 = c)).map fun p => (Referencer.zone z, p.2)) =
      (dets.filter fun d => decide (d = c)).map fun _ => (Referencer.zone z, Kind.mainline) := by
  simp [List.filter_map, Function.comp_def]

/-- Settles O39: the block's ten checks, two lists of them, then the effect of the definition under the response. -/
theorem zoneDefined : Obligations.ZoneDefined := by
  intro s l a ht
  refine ⟨fun hz => ⟨_, exec_zoneDefine l a s, State.frame_refused ht ?_⟩, fun _ z hz => ?_⟩
  · simp only [State.zoneDefine, Classical.not_not.1 hz]
  have early := State.zoneDefine_checks (u := s.goodFrame l) (l := l) hz
  rw [State.goodFrame_zone] at early
  refine early.framed (exec_zoneDefine l a s) ht fun hr dets members hd hm => ?_
  have late := State.defineChecked_checks (u := s.goodFrame l) (l := l) (z := z) dets a.oc.toNat a.gz.toNat a.rmax.toNat members
  rw [← hr dets members hd hm] at late
  simp only [State.goodFrame_chan, State.goodFrame_ramp, State.zoneCount_goodFrame] at late
  refine late.framed (exec_zoneDefine l a s) ht fun hdone => ⟨_, exec_zoneDefine l a s, ?_⟩
  rw [State.frame_eq ht hdone]
  obtain ⟨hzone, hzones, hrefs, hramps, hheads, hrest, hsets, hraised⟩ :=
    (s.goodFrame l).defineZone_effect z (Zone.defined l dets a.oc.toNat a.gz.toNat a.rmax.toNat members)
  refine ⟨(State.respond_zone _ _ _ _ _).trans hzone, fun y hy => by simpa using hzones y hy, fun c => ?_, fun n => ?_,
    by simpa using hheads, hraised.respond l _ _, answered_of_setsOnly hsets 0x20 .done, hrest.framed _ _⟩
  · rw [← detectorRefs_eq]
    simpa using hrefs c
  · rw [State.respond_ramp, hramps n, State.goodFrame_ramp]
    rfl

/-! ### ZONE AMEND (R83, R84) -/

/-- The change that a parameter in range asks for: none by the value that stands for no change, else the new value (R143). -/
def givenChange {w : Nat} (noChange v : BitVec w) : ParamChange := if v = noChange then .keep else .value v.toNat

section
variable {w : Nat} {noChange v : BitVec w} {inRange : Nat → Bool}

theorem paramChange_given (h : v = noChange ∨ inRange v.toNat = true) :
    paramChange (v == noChange) inRange v.toNat = givenChange noChange v := by
  unfold paramChange givenChange
  by_cases e : v = noChange
  · simp [e]
  · simp [e, h.resolve_left e]

theorem paramChange_outOfRange (h : ¬ (v = noChange ∨ inRange v.toNat = true)) :
    paramChange (v == noChange) inRange v.toNat = .outOfRange := by
  obtain ⟨e, hr⟩ := not_or.1 h
  simp [paramChange, e, hr]

theorem givenChange_inRange (noChange v : BitVec w) : givenChange noChange v ≠ .outOfRange := by
  unfold givenChange
  split <;> simp

theorem givenChange_keep : givenChange noChange v = .keep ↔ v = noChange := by simp [givenChange]

theorem merge_givenChange (old : Option Nat) :
    (givenChange noChange v).merge old = if v = noChange then old else some v.toNat := by
  unfold givenChange
  split <;> rfl

end

/-- A gain of one byte is in range unless it stands for no change. -/
theorem gzInRange_byte (v : Byte) : v = 0 ∨ gzInRange v.toNat = true := by
  rw [gzInRange_iff]
  bv_omega

section
variable {u : State} {l : Link} {z : ZoneNo}

/-- Checks 1 to 4 of R83 at the block: the arguments that pass them go on to `amendChecked`. -/
theorem State.zoneAmend_checks {a : ZoneAmendArgs} (hz : zoneArg a.zone = some z) :
    RefusesFirst u (u.zoneAmend l a)
      [((u.zone z).state ≠ .vacant, .absent), (∀ k, k ≠ l → (u.zone z).owner ≠ some k, .authority),
        ((a.oc = 0xFFFF ∨ 50 ≤ a.oc.toNat ∧ a.oc.toNat ≤ 600) ∧ (a.rmax = 0xFFFF ∨ a.rmax.toNat ≤ 3000) ∧
          allArgs memberArg a.weights ≠ none ∧ allArgs memberArg a.additions ≠ none, .range)]
      (fun r => ∀ weights additions, allArgs memberArg a.weights = some weights →
        allArgs memberArg a.additions = some additions →
        r = u.amendChecked l z (givenChange 0xFFFF a.oc) (givenChange 0 a.gz) (givenChange 0xFFFF a.rmax) weights
          additions) := by
  unfold State.zoneAmend
  simp only [hz]
  refine .ite Classical.not_not.symm (.ite (by rw [← Zone.allows_iff, Bool.not_eq_true', Bool.not_eq_true]) ?_)
  simp only [← ocInRange_iff, ← rmaxInRange_iff]
  rw [paramChange_given (gzInRange_byte a.gz)]
  cases hw : allArgs memberArg a.weights with
  | none => simp [RefusesFirst]
  | some weights =>
    cases hadd : allArgs memberArg a.additions with
    | none => simp [RefusesFirst]
    | some additions =>
      refine ⟨fun h => if_pos ?_, fun ⟨ho, hr, _⟩ => ?_⟩
      · by_cases ho : a.oc = 0xFFFF ∨ ocInRange a.oc.toNat = true
        · exact .inr (.inr (paramChange_outOfRange fun hr => h ⟨ho, hr, nofun, nofun⟩))
        · exact .inl (paramChange_outOfRange ho)
      · rintro _ _ ⟨⟩ ⟨⟩
        rw [paramChange_given ho, paramChange_given hr]
        exact if_neg (by simp [givenChange_inRange])

/-- Checks 5 to 9 of R83 at the block. -/
theorem State.amendChecked_checks (oc gz rmax : ParamChange) (weights additions : List (RampNo × Nat)) :
    RefusesFirst u (u.amendChecked l z oc gz rmax weights additions)
      [(∀ m ∈ weights, (u.zone z).names m.1 = true, .absent),
        (noRepeat (additions.map (·.1)) = true ∧ ∀ m ∈ additions, (u.zone z).names m.1 = false, .conflict),
        (∀ m ∈ additions, (u.ramp m.1).state ≠ .vacant, .absent),
        ((u.zone z).members.length + (u.zone z).additions.length + additions.length ≤ 6, .range),
        (∀ m ∈ additions, u.zoneCount m.1 + 1 ≤ 3, .conflict)]
      (· = (u.setZone z ((u.zone z).amendWith l oc gz rmax weights additions), .done)) := by
  unfold State.amendChecked
  exact .ite (by simp) (.ite (by rw [Classical.not_and_iff_not_or_not]; simp) (.ite (u.anyVacant_iff _) (.ite (by simp)
    (.ite (u.anyFull_iff _) rfl))))

end

section
variable {a : ZoneAmendArgs} (z : Zone) (l : Link) {weights additions : List (RampNo × Nat)}

/-- The record after a ZONE AMEND whose parameters are in range. -/
def Zone.amendedBy (z : Zone) (l : Link) (a : ZoneAmendArgs) (weights additions : List (RampNo × Nat)) : Zone :=
  z.amendWith l (givenChange 0xFFFF a.oc) (givenChange 0 a.gz) (givenChange 0xFFFF a.rmax) weights additions

theorem Zone.amendedBy_nothing
    (h : a.oc = 0xFFFF ∧ a.gz = 0 ∧ a.rmax = 0xFFFF ∧ weights = [] ∧ additions = []) :
    (z.amendedBy l a weights additions).amendment = z.amendment := by
  simp only [Zone.amendedBy, Zone.amendWith, givenChange_keep]
  exact if_pos h

theorem ZoneAmendment.merge_merged (old : ZoneAmendment) (a : ZoneAmendArgs) (weights additions : List (RampNo × Nat)) :
    Merged old (old.merge (givenChange 0xFFFF a.oc) (givenChange 0 a.gz) (givenChange 0xFFFF a.rmax) weights additions) a
      weights additions := by
  obtain ⟨hoc, hgz, hrmax, hadditions, hweights, honce⟩ := ZoneAmendment.mergeWeights_effect weights
    { old with
      oc := (givenChange 0xFFFF a.oc).merge old.oc
      gz := (givenChange 0 a.gz).merge old.gz
      rmax := (givenChange 0xFFFF a.rmax).merge old.rmax }
  exact ⟨hoc.trans (merge_givenChange _), hgz.trans (merge_givenChange _), hrmax.trans (merge_givenChange _),
    congrArg (· ++ additions) hadditions, hweights, honce⟩

theorem Zone.amendedBy_merged
    (h : ¬ (a.oc = 0xFFFF ∧ a.gz = 0 ∧ a.rmax = 0xFFFF ∧ weights = [] ∧ additions = [])) :
    ∃ new, (z.amendedBy l a weights additions).amendment = some new ∧
      Merged (z.amendment.getD .none) new a weights additions := by
  refine ⟨_, ?_, ZoneAmendment.merge_merged _ a weights additions⟩
  simp only [Zone.amendedBy, Zone.amendWith, givenChange_keep]
  exact if_neg h

end

/-- Settles O40: the block's nine checks, two lists of them, then the record merged and owned, and nothing else. -/
theorem zoneAmended : Obligations.ZoneAmended := by
  intro s l a ht
  refine ⟨fun hz => ⟨_, exec_zoneAmend l a s, State.frame_refused ht ?_⟩, fun _ z hz => ?_⟩
  · simp only [State.zoneAmend, Classical.not_not.1 hz]
  have early := State.zoneAmend_checks (u := s.goodFrame l) (l := l) hz
  rw [State.goodFrame_zone] at early
  refine early.framed (exec_zoneAmend l a s) ht fun hr weights additions hw hadd => ?_
  have late := State.amendChecked_checks (u := s.goodFrame l) (l := l) (z := z) (givenChange 0xFFFF a.oc)
    (givenChange 0 a.gz) (givenChange 0xFFFF a.rmax) weights additions
  rw [← hr weights additions hw hadd] at late
  simp only [State.goodFrame_zone, State.goodFrame_ramp, State.zoneCount_goodFrame] at late
  refine late.framed (exec_zoneAmend l a s) ht fun hlate => ⟨_, exec_zoneAmend l a s, ?_⟩
  have hdone : (s.goodFrame l).zoneAmend l a =
      ((s.goodFrame l).setZone z ((s.zone z).amendedBy l a weights additions), .done) := hlate
  rw [State.frame_eq ht hdone]
  have hzone : (((s.goodFrame l).setZone z ((s.zone z).amendedBy l a weights additions)).respond l 0x21 .done).zone z =
      (s.zone z).amendedBy l a weights additions := by simp
  refine ⟨?_, fun h => ?_, fun h => ?_, fun y hy => ?_, by simp, by simp, by simp,
    answered_of_setsOnly (.of_links fun k => by simp) 0x21 .done, noNotice_of_sets (fun k => by simp) _ _,
    (State.setZone_rest _ _ _).framed _ _⟩
  · exact hzone.trans (by rw [hzone]; rfl)
  · exact (congrArg Zone.amendment hzone).trans (Zone.amendedBy_nothing _ _ h)
  · obtain ⟨new, hnew, hm⟩ := Zone.amendedBy_merged (s.zone z) l h
    exact ⟨new, (congrArg Zone.amendment hzone).trans hnew, hm⟩
  · simp [State.zone_setZone, hy]

/-! ### ZONE DISSOLVE (R85) -/

theorem State.zoneDissolve_checks {u : State} {l : Link} {z : ZoneNo} {zone : Byte} (hz : zoneArg zone = some z) :
    RefusesFirst u (u.zoneDissolve l zone)
      [((u.zone z).state ≠ .vacant, .absent), (∀ k, k ≠ l → (u.zone z).owner ≠ some k, .authority)]
      (· = (u.dissolveZone z, .done)) := by
  unfold State.zoneDissolve
  simp only [hz]
  exact .ite Classical.not_not.symm (.ite (by rw [← Zone.allows_iff, Bool.not_eq_true', Bool.not_eq_true]) rfl)

/-- Settles O41: the block's three checks, then the effect of the dissolution under the response. -/
theorem zoneDissolved : Obligations.ZoneDissolved := by
  intro s l zone ht
  refine ⟨fun hz => ⟨_, exec_zoneDissolve l zone s, State.frame_refused ht ?_⟩, fun _ z hz => ?_⟩
  · simp only [State.zoneDissolve, Classical.not_not.1 hz]
  have checks := State.zoneDissolve_checks (u := s.goodFrame l) (l := l) hz
  rw [State.goodFrame_zone] at checks
  refine checks.framed (exec_zoneDissolve l zone s) ht fun hdone => ⟨_, exec_zoneDissolve l zone s, ?_⟩
  rw [State.frame_eq ht hdone]
  obtain ⟨hzone, hzones, hrefs, hramps, hheads, hrest, hsets, hraised⟩ := (s.goodFrame l).dissolveZone_effect z
  have rest := hrest.framed 0x22 .done
  exact ⟨by simpa using hzone, fun y hy => by simpa using hzones y hy, fun n => by simpa [Ramp.leaveZone] using hramps n,
    fun c => by simpa using hrefs c, by simpa using hheads, rest.bulletin, hraised.respond l _ _,
    answered_of_setsOnly hsets 0x22 .done, rest⟩

end Sys2Proof.Machine
end

section
/-! The evaluation of a zone (R88 to R91): the reduction moved within its bounds, the floors of the shares and the remainder
given out from the head of the list. -/

namespace Sys2Proof.Machine

/-! ### What an evaluation leaves -/

/-- The members that an evaluation divides among (R90). -/
def Zone.eligible (z : Zone) (ramps : RampNo → Ramp) : List (RampNo × Nat) := z.members.filter fun m => (ramps m.1).eligible

section
variable {z : Zone} {sum : Summary} {oz : Nat}

theorem Zone.evaluate_degraded (h : sum.meanOccupancy z.detectors = none) (ramps : RampNo → Ramp) :
    z.evaluate sum ramps =
      ⟨{ z with state := .degraded, r := 0, unable := false, oz := none, lastEval := some sum.number }, []⟩ := by
  rw [Zone.evaluate, h]

theorem Zone.evaluate_worked (h : sum.meanOccupancy z.detectors = some oz) (ramps : RampNo → Ramp) :
    z.evaluate sum ramps =
      ⟨{ z with
          state := if 0 < z.newReduction oz then .restricting else .idle
          r := z.newReduction oz
          unable := decide (0 < z.newReduction oz) && (z.eligible ramps).isEmpty
          oz := some oz
          lastEval := some sum.number },
        shareOut (z.newReduction oz) (z.eligible ramps)⟩ := by
  rw [Zone.evaluate, h]
  rfl

theorem Ramp.eligible_iff (r : Ramp) : r.eligible = true ↔ r.state = .metering ∧ r.override = none := by
  simp [Ramp.eligible]

theorem Zone.eligible_eq_nil {z : Zone} {ramps : RampNo → Ramp} : z.eligible ramps = [] ↔
    ∀ m ∈ z.members, ¬ ((ramps m.1).state = .metering ∧ (ramps m.1).override = none) := by
  simp only [Zone.eligible, List.filter_eq_nil_iff, Ramp.eligible_iff]

theorem Zone.newReduction_eq (z : Zone) (oz : Nat) : (z.newReduction oz : Int) =
    max 0 (min (z.rmax : Int) (z.r + ((z.gz : Int) * ((oz : Int) - z.oc)).tdiv 16)) := by
  rw [Zone.newReduction, clamp_eq (Nat.zero_le _)]
  omega

theorem reductionState_restricting (r : Nat) : (if 0 < r then ZoneState.restricting else .idle) = .restricting ↔ 0 < r := by
  split
  · next h => exact iff_of_true rfl h
  · next h => exact iff_of_false nofun h

theorem reductionState_idle (r : Nat) : (if 0 < r then ZoneState.restricting else .idle) = .idle ↔ r = 0 := by
  split
  · next h => exact iff_of_false nofun (Nat.ne_of_gt h)
  · next h => exact iff_of_true rfl (Nat.eq_zero_of_not_pos h)

end

/-- Settles O43: the two outcomes of an evaluation, read off its record. -/
theorem zoneEvaluates : Obligations.ZoneEvaluates := by
  intro z sum ramps
  refine ⟨fun h => Zone.evaluate_degraded h ramps, fun oz h => ?_⟩
  rw [Zone.evaluate_worked h]
  refine ⟨rfl, rfl, z.newReduction_eq oz, reductionState_restricting _, reductionState_idle _, ?_, rfl⟩
  simp only [Bool.and_eq_true, decide_eq_true_eq, List.isEmpty_iff, Zone.eligible_eq_nil]

/-! ### The floors (R91) -/

/-- The sum of the floors of the shares, what the remainder is reckoned from (R91). -/
def floorSum (r : Nat) (members : List (RampNo × Nat)) : Nat :=
  (members.map fun m => r * m.2 / (members.map (·.2)).sum).sum

/-- Each floor times the divisor is at most the product that it divides. -/
theorem floors_mul_le (r total : Nat) (l : List (RampNo × Nat)) :
    (l.map fun m => r * m.2 / total).sum * total ≤ r * (l.map (·.2)).sum := by
  induction l with
  | nil => simp
  | cons m rest ih =>
    simp only [List.map_cons, List.sum_cons, Nat.add_mul, Nat.mul_add]
    exact Nat.add_le_add (Nat.div_mul_le_self _ _) ih

/-- Each floor and one more, times the divisor, is above the product that it divides. -/
theorem add_length_le_floors_mul {total : Nat} (ht : 0 < total) (r : Nat) (l : List (RampNo × Nat)) :
    r * (l.map (·.2)).sum + l.length ≤ ((l.map fun m => r * m.2 / total).sum + l.length) * total := by
  induction l with
  | nil => simp
  | cons m rest ih =>
    have hm : r * m.2 < (r * m.2 / total + 1) * total := (Nat.div_lt_iff_lt_mul ht).1 (Nat.lt_succ_self _)
    simp only [List.map_cons, List.sum_cons, List.length_cons, Nat.add_mul, Nat.mul_add] at ih hm ⊢
    omega

section
variable {r : Nat} {members : List (RampNo × Nat)}

/-- The floors come to no more than the reduction. -/
theorem floorSum_le (ht : 0 < (members.map (·.2)).sum) : floorSum r members ≤ r :=
  Nat.le_of_mul_le_mul_right (floors_mul_le r _ members) ht

/-- The floors fall short of the reduction by less than one veh/h for each member. -/
theorem remainder_lt (ht : 0 < (members.map (·.2)).sum) : r - floorSum r members < members.length := by
  have hpos : 0 < members.length := by
    cases members with
    | nil => exact absurd ht (Nat.lt_irrefl 0)
    | cons m rest => exact Nat.succ_pos _
  have hmul : r * (members.map (·.2)).sum < (floorSum r members + members.length) * (members.map (·.2)).sum :=
    Nat.lt_of_lt_of_le (Nat.lt_add_of_pos_right hpos) (add_length_le_floors_mul ht r members)
  exact Nat.sub_lt_left_of_lt_add (floorSum_le ht) (Nat.lt_of_mul_lt_mul_right hmul)

end

/-! ### The remainder (R91) -/

theorem giveRemainder_ramps (k : Nat) (l : List (RampNo × Nat)) : (giveRemainder k l).map (·.1) = l.map (·.1) := by
  induction l generalizing k with
  | nil => cases k <;> rfl
  | cons m rest ih =>
    cases k with
    | zero => rfl
    | succ k => exact congrArg (m.1 :: ·) (ih k)

theorem giveRemainder_sum {k : Nat} {l : List (RampNo × Nat)} (h : k ≤ l.length) :
    ((giveRemainder k l).map (·.2)).sum = (l.map (·.2)).sum + k := by
  induction l generalizing k with
  | nil => obtain rfl := Nat.le_zero.1 h; rfl
  | cons m rest ih =>
    cases k with
    | zero => rfl
    | succ k =>
      simp only [giveRemainder, List.map_cons, List.sum_cons, ih (Nat.le_of_succ_le_succ h)]
      omega

theorem giveRemainder_getElem (k : Nat) (l : List (RampNo × Nat)) (i : Nat) (h : i < l.length)
    (h' : i < (giveRemainder k l).length) : (giveRemainder k l)[i].2 = l[i].2 + if i < k then 1 else 0 := by
  induction l generalizing k i with
  | nil => exact absurd h (Nat.not_lt_zero i)
  | cons m rest ih =>
    cases k with
    | zero => simp [giveRemainder]
    | succ k =>
      cases i with
      | zero => simp [giveRemainder]
      | succ i => simpa [giveRemainder] using ih k i (Nat.lt_of_succ_lt_succ h) (Nat.lt_of_succ_lt_succ h')

/-! ### The shares (R91) -/

section
variable (r : Nat) (members : List (RampNo × Nat))

theorem shareOut_eq : shareOut r members = giveRemainder (r - floorSum r members)
    (members.map fun m => (m.1, r * m.2 / (members.map (·.2)).sum)) := by
  simp [shareOut, floorSum, Function.comp_def]

theorem shareOut_ramps : (shareOut r members).map (·.1) = members.map (·.1) := by
  rw [shareOut_eq, giveRemainder_ramps, List.map_map]
  rfl

theorem shareOut_getElem (i : Nat) (h : i < members.length) (h' : i < (shareOut r members).length) :
    (shareOut r members)[i].2 =
      r * members[i].2 / (members.map (·.2)).sum + if i < r - floorSum r members then 1 else 0 := by
  simp only [shareOut_eq] at h' ⊢
  rw [giveRemainder_getElem _ _ i (by simpa using h)]
  simp

variable {r members}

theorem shareOut_sum (ht : 0 < (members.map (·.2)).sum) : ((shareOut r members).map (·.2)).sum = r := by
  rw [shareOut_eq, giveRemainder_sum (by rw [List.length_map]; exact Nat.le_of_lt (remainder_lt ht)), List.map_map]
  exact Nat.add_sub_of_le (floorSum_le ht)

end

/-- Settles O42: the share list of the eligible members, whose weights are at least 1. -/
theorem sharesSumToReduction : Obligations.SharesSumToReduction := by
  intro z sum ramps oz h hw
  rw [Zone.evaluate_worked h]
  refine ⟨shareOut_ramps _ _, fun hne => ?_, fun hr he => ?_, fun hr => ?_⟩
  · have ht : 0 < ((z.eligible ramps).map (·.2)).sum := by
      obtain ⟨m, hm⟩ := List.exists_mem_of_ne_nil _ hne
      exact List.sum_pos_iff_exists_pos_nat.2 ⟨m.2, List.mem_map_of_mem hm, hw m (List.mem_filter.1 hm).1⟩
    exact ⟨shareOut_sum ht, remainder_lt ht, shareOut_getElem _ _⟩
  · exact ⟨List.map_eq_nil_iff.1 ((shareOut_ramps _ _).trans (congrArg _ he)),
      Bool.and_eq_true_iff.2 ⟨decide_eq_true hr, List.isEmpty_iff.2 he⟩⟩
  · refine Bool.and_eq_false_iff.2 (hr.imp (fun h0 => ?_) fun hne => ?_)
    · exact decide_eq_false (Nat.not_lt.2 (Nat.le_of_eq h0))
    · exact List.isEmpty_eq_false_iff.2 hne

end Sys2Proof.Machine
end

section
/-! QUEUE ALARM (R28, R99, R102 to R104, R106, R110 to R114): the dwell reached in METERING and in any other state. -/

namespace Sys2Proof.Machine

section
variable {s : State} {n : RampNo} {p : Plan}

/-! ### What the dwell brings -/

theorem State.takeDwell_taken (hp : (s.ramp n).plan = some p) (hm : (s.ramp n).state = .metering)
    (ha : (s.ramp n).alarmTaken = true) : s.takeDwell n = s.modRamp n fun r => { r with dwellTaken := true } := by
  simp [State.takeDwell, hp, hm, ha]

theorem State.takeDwell_alarm (hp : (s.ramp n).plan = some p) (hm : (s.ramp n).state = .metering)
    (ha : (s.ramp n).alarmTaken = false) : s.takeDwell n = s.takeAlarm n p := by
  simp [State.takeDwell, hp, hm, ha]

theorem State.takeDwell_elsewhere (hp : (s.ramp n).plan = some p) (hm : (s.ramp n).state ≠ .metering) :
    s.takeDwell n = s.modRamp n fun r => { r with q := p.queue.storage, dwellTaken := true } := by
  simp [State.takeDwell, hp, hm]

/-! ### The event -/

theorem exec_queueAlarm (hr : s.resetHeld = false) (hd : (s.ramp n).dwellDue = true) :
    exec (.queueAlarm n) s = .next (s.takeDwell n) := by
  change Host.Outcome.next (s.running fun t => if (t.ramp n).dwellDue then t.takeDwell n else t) = _
  rw [State.running_up hr, if_pos hd]

end

/-- Settles O26: the dwell is due, and is taken by the ramp's state. -/
theorem queueAlarmTaken : Obligations.QueueAlarmTaken := by
  intro s n p hr hshape hp hv he hdwell ht
  have hexec := exec_queueAlarm hr ((s.ramp n).dwellDue_iff.2 ⟨p, hp, hv, he, hdwell, ht⟩)
  refine ⟨fun hm ha => ?_, fun hm ha => ?_, fun hm => ?_⟩
  · rw [State.takeDwell_taken hp hm ha] at hexec
    exact ⟨_, hexec, s.ramp_modRamp_same n _, rfl, s.modRamp_link n _, (s.modRamp_rampOnly n _).1⟩
  · have hhold := hshape.holdNotRun hp ((s.ramp n).dwellMet_iff.2 ⟨p, hp, he, hdwell⟩)
    obtain ⟨hrec, hflush, -⟩ := State.takeAlarm_effect hp hhold
    obtain ⟨honly, hsets⟩ := s.takeAlarm_rampOnly n p
    rw [State.takeDwell_alarm hp hm ha] at hexec
    exact ⟨_, hexec, hrec.same, State.takeAlarm_intervalTaken hp hhold, hrec.held, hrec.q, hflush, honly, hsets⟩
  · rw [State.takeDwell_elsewhere hp hm] at hexec
    exact ⟨_, hexec, s.ramp_modRamp_same n _, rfl, s.modRamp_link n _, (s.modRamp_rampOnly n _).1⟩

end Sys2Proof.Machine
end

section
/-! FLUSH HOLD REACHED (R29, R105, R106). -/

namespace Sys2Proof.Machine

theorem exec_flushHoldReached {s : State} (n : RampNo) (hr : s.resetHeld = false) :
    exec (.flushHoldReached n) s = .next (s.tryFlushExit n) := by
  change Host.Outcome.next (s.running fun t => t.tryFlushExit n) = _
  rw [State.running_up hr]

/-- Settles O27: of the two conditions of the flush exit the hold is met, so Q against the target decides. -/
theorem flushExitTaken : Obligations.FlushExitTaken := by
  intro s n p hr hp hst hhold
  have hmet := Ramp.flushExitMet_iff hp
  have hexec := exec_flushHoldReached n hr
  refine ⟨fun hq => ?_, fun hq => ?_⟩
  · have hx : (s.ramp n).flushExitMet = true := hmet.2 ⟨hst, hhold, hq⟩
    obtain ⟨hraised, hlive⟩ := State.tryFlushExit_notices hx
    obtain ⟨honly, hsets⟩ := s.tryFlushExit_rampOnly n
    exact ⟨_, hexec, (s.ramp_tryFlushExit n).trans (if_pos hx), s.heads_tryFlushExit n, hraised, hlive, honly, hsets⟩
  · have hx : (s.ramp n).flushExitMet = false := Bool.eq_false_iff.2 fun h => by
      obtain ⟨-, -, hle⟩ := hmet.1 h
      exact Nat.not_le.2 hq hle
    rw [hexec, State.tryFlushExit_none hx]

end Sys2Proof.Machine
end

section
/-! EMPTY JUDGEMENT (R39, R104 to R106): the report that the demand-off times bring, and the judgement in transit as the RPC takes
it. -/

namespace Sys2Proof.Machine

@[simp] theorem State.heads_reportEmpty (s : State) (n : RampNo) : (s.reportEmpty n).heads = s.heads := by
  unfold State.reportEmpty
  split <;> rfl

section
variable {s : State} {n : RampNo} {p : Plan}

/-! ### The report -/

/-- After the report a judgement that was in transit, or that its conditions now bring, is in transit (R104). -/
theorem State.reportEmpty_inTransit (hp : (s.ramp n).plan = some p)
    (h : (s.ramp n).emptyPending = true ∨ (s.ramp n).emptyJudged = false ∧ s.AllClear n p) :
    (s.reportEmpty n).ramp n = { s.ramp n with
      emptyJudged := ((s.reportEmpty n).ramp n).emptyJudged, emptyPending := true } := by
  rw [State.ramp_reportEmpty]
  by_cases hd : s.emptyDue n = true
  · rw [if_pos hd]
  · have hpend : (s.ramp n).emptyPending = true :=
      h.resolve_right fun ⟨hj, hall⟩ => hd ((State.emptyDue_iff hp).2 ⟨hall, hj⟩)
    rw [if_neg hd, ← hpend]

theorem State.emptyJudged_reportEmpty (hp : (s.ramp n).plan = some p) :
    ((s.reportEmpty n).ramp n).emptyJudged = true ↔ (s.ramp n).emptyJudged = true ∨ s.AllClear n p := by
  rw [← State.allClear_reportEmpty]
  exact (State.marks_reportEmpty hp).1

/-- No report: the judgement stands already, or a condition fails. -/
theorem State.reportEmpty_quiet (hp : (s.ramp n).plan = some p)
    (h : (s.ramp n).emptyJudged = true ∨ ¬ s.AllClear n p) : s.reportEmpty n = s := by
  refine State.reportEmpty_none (Bool.eq_false_iff.2 fun hd => ?_)
  obtain ⟨hall, hj⟩ := (State.emptyDue_iff hp).1 hd
  exact h.elim (fun hj' => Bool.false_ne_true (hj.symm.trans hj')) fun hno => hno hall

/-! ### The judgement taken -/

/-- Q emptied by a judgement taken, before the flush exit it may bring (R104). -/
def State.emptied (s : State) (n : RampNo) : State := s.modRamp n fun r => { r with q := 0, emptyPending := false }

theorem State.takeEmpty_cycling (h : (s.ramp n).emptyPending = true) (hc : (s.ramp n).cycling = true) :
    s.takeEmpty n = (s.emptied n).tryFlushExit n := by
  simp [State.takeEmpty, State.emptied, h, hc]

theorem State.takeEmpty_disregarded (h : (s.ramp n).emptyPending = true) (hc : (s.ramp n).cycling = false) :
    s.takeEmpty n = s.modRamp n fun r => { r with emptyPending := false } := by
  simp [State.takeEmpty, h, hc]

theorem State.ramp_emptied (s : State) (n : RampNo) :
    (s.emptied n).ramp n = { s.ramp n with q := 0, emptyPending := false } := s.ramp_modRamp_same n _

/-- With Q at 0 the flush hold alone decides the flush exit (R105). -/
theorem State.flushExitMet_emptied (hp : (s.ramp n).plan = some p) : ((s.emptied n).ramp n).flushExitMet = true ↔
    (s.ramp n).state = .flushing ∧ p.queue.flushHold * 100 ≤ (s.ramp n).contOff := by
  have hplan : ((s.emptied n).ramp n).plan = some p := by rw [State.ramp_emptied]; exact hp
  rw [Ramp.flushExitMet_iff hplan, State.ramp_emptied]
  simp

/-- What a judgement taken in METERING or FLUSHING leaves (R39, R104 to R106). -/
structure EmptyTaken (s t : State) (n : RampNo) (p : Plan) : Prop where
  ramp : t.ramp n = { s.ramp n with
    q := 0, emptyPending := false
    state := if (s.ramp n).state = .flushing ∧ p.queue.flushHold * 100 ≤ (s.ramp n).contOff then .metering
      else (s.ramp n).state }
  exits : (s.ramp n).state = .flushing ∧ p.queue.flushHold * 100 ≤ (s.ramp n).contOff →
    Raised t .rampState n.val (.rampState .metering .flushEnded) false ∧ NotLive t .flush n.val
  stays : ¬ ((s.ramp n).state = .flushing ∧ p.queue.flushHold * 100 ≤ (s.ramp n).contOff) → ∀ l, t.link l = s.link l
  heads : t.heads = s.heads

theorem State.takeEmpty_taken (hp : (s.ramp n).plan = some p) (h : (s.ramp n).emptyPending = true)
    (hc : (s.ramp n).cycling = true) : EmptyTaken s (s.takeEmpty n) n p := by
  have hmet := State.flushExitMet_emptied (s := s) (n := n) hp
  rw [State.takeEmpty_cycling h hc]
  refine ⟨?_, fun hx => State.tryFlushExit_notices (hmet.2 hx), fun hx l => ?_, State.heads_tryFlushExit _ n⟩
  · rw [State.ramp_tryFlushExit]
    by_cases hx : (s.ramp n).state = .flushing ∧ p.queue.flushHold * 100 ≤ (s.ramp n).contOff
    · rw [if_pos (hmet.2 hx), if_pos hx, State.ramp_emptied]
    · rw [if_neg (mt hmet.1 hx), if_neg hx, State.ramp_emptied]
  · rw [State.tryFlushExit_none (Bool.eq_false_iff.2 (mt hmet.1 hx))]
    exact s.modRamp_link n _ l

/-! ### The event -/

theorem exec_emptyJudgement (n : RampNo) (hr : s.resetHeld = false) :
    exec (.emptyJudgement n) s = .next ((s.reportEmpty n).takeEmpty n) := by
  change Host.Outcome.next (s.running fun t => (t.reportEmpty n).takeEmpty n) = _
  rw [State.running_up hr]

end

/-- Settles O32: the report comes first, and the judgement then in transit is taken or disregarded by the ramp's state. -/
theorem emptyJudged : Obligations.EmptyJudged := by
  intro s n p hr hp
  have hexec := exec_emptyJudgement n hr
  refine ⟨fun hdue hst => ?_, fun hpend hm hf => ?_, fun hpend hno => ?_⟩
  · have hrep := State.reportEmpty_inTransit hp hdue
    have hjudged := State.emptyJudged_reportEmpty hp
    have hlink := s.link_reportEmpty n
    have hheads := s.heads_reportEmpty n
    obtain ⟨honly, hsets⟩ := (s.reportEmpty_rampOnly n).trans ((s.reportEmpty n).takeEmpty_rampOnly n)
    have ht : EmptyTaken (s.reportEmpty n) ((s.reportEmpty n).takeEmpty n) n p :=
      State.takeEmpty_taken (by rw [hrep]; exact hp) (by rw [hrep]) (by rw [hrep]; exact (Ramp.cycling_iff _).2 hst)
    obtain ⟨hramp, hexits, hstays, hkept⟩ := ht
    rw [hrep] at hexits hstays
    refine ⟨_, hexec, ?_, ?_, hexits, fun hx l => (hstays hx l).trans (hlink l), hkept.trans hheads, honly, hsets⟩
    · rw [hramp, hrep]
    · rw [hramp]
      exact hjudged
  · have hc : (s.ramp n).cycling = false := Bool.eq_false_iff.2 fun h => ((Ramp.cycling_iff _).1 h).elim hm hf
    have hquiet := State.reportEmpty_quiet hp (.inr fun ⟨hst, _⟩ => hst.elim hm hf)
    rw [hquiet, State.takeEmpty_disregarded hpend hc] at hexec
    exact ⟨_, hexec, s.ramp_modRamp_same n _, rfl, s.modRamp_link n _, (s.modRamp_rampOnly n _).1⟩
  · rw [hexec, State.reportEmpty_quiet hp hno, State.takeEmpty_none hpend]

end Sys2Proof.Machine
end

section
/-! What holds the law of R109 together through every step: a GREEN head has a ramp that may show it, and a running ramp has PERMIT. -/

namespace Sys2Proof.Machine

/-! ### What the law rests on -/

/-- The ramp is in a state in which a head may show GREEN (R109). -/
def Ramp.showsGreen (r : Ramp) : Prop := r.state = .metering ∨ r.state = .flushing ∨ r.state = .closing

theorem Ramp.showsGreen.running {r : Ramp} (h : r.showsGreen) : r.running = true := by
  obtain h | h | h := h <;> simp [Ramp.running, h]

theorem Ramp.showsGreen_of_cycling {r : Ramp} (h : r.cycling = true) : r.showsGreen :=
  (r.cycling_iff.1 h).imp_right .inl

/-- Every GREEN head has a ramp that may show it. -/
def State.GreensWarranted (s : State) : Prop :=
  ∀ h : HeadNo, (s.head h).aspect = .green → (s.ramp (headRamp h)).showsGreen

/-- The law's two parts while RESET is not held: what the steps of a part that is up keep. -/
structure State.Lawful (s : State) : Prop where
  up : s.resetHeld = false
  greens : s.GreensWarranted
  permit : ∀ n : RampNo, (s.ramp n).running = true → s.permit = true

theorem State.Guarded.lawful {s : State} (h : s.Guarded) (up : s.resetHeld = false) : s.Lawful :=
  ⟨up, h.green, h.permit⟩

theorem State.Lawful.guarded {s : State} (h : s.Lawful) : s.Guarded :=
  ⟨h.greens, h.permit, fun x => by simp [h.up] at x, fun x => by simp [h.up] at x⟩

/-- The law of R109 is what `Guarded` says of a GREEN head, its ramp being a running one. -/
theorem State.Guarded.greenLaw {s : State} (h : s.Guarded) : s.greenLaw := fun g hg =>
  have hr : (s.ramp (headRamp g)).showsGreen := h.green g hg
  ⟨hr, h.permit _ hr.running⟩

/-! ### Changes that the law does not see -/

/-- Nothing that the law rests on moves against it: the lines and the ramps' states stay, and no head turns GREEN. -/
structure Tame (s t : State) : Prop where
  resetHeld : t.resetHeld = s.resetHeld
  permit : t.permit = s.permit
  states : ∀ n, (t.ramp n).state = (s.ramp n).state
  heads : ∀ h, (t.head h).aspect = .green → (s.head h).aspect = .green

theorem Tame.refl (s : State) : Tame s s := ⟨rfl, rfl, fun _ => rfl, fun _ => id⟩

theorem Tame.trans {s t u : State} (h : Tame s t) (k : Tame t u) : Tame s u :=
  ⟨k.resetHeld.trans h.resetHeld, k.permit.trans h.permit, fun n => (k.states n).trans (h.states n),
    fun g x => h.heads g (k.heads g x)⟩

theorem Ramp.running_of_state {r u : Ramp} (h : u.state = r.state) : u.running = r.running := by
  simp only [Ramp.running, h]

theorem Ramp.showsGreen_of_state {r u : Ramp} (h : u.state = r.state) : u.showsGreen ↔ r.showsGreen := by
  simp only [Ramp.showsGreen, h]

theorem State.GreensWarranted.tame {s t : State} (h : s.GreensWarranted) (k : Tame s t) : t.GreensWarranted :=
  fun g x => (Ramp.showsGreen_of_state (k.states _)).2 (h g (k.heads g x))

theorem State.Lawful.tame {s t : State} (h : s.Lawful) (k : Tame s t) : t.Lawful :=
  ⟨k.resetHeld.trans h.up, h.greens.tame k,
    fun n x => k.permit.trans (h.permit n ((Ramp.running_of_state (k.states n)).symm.trans x))⟩

/-- Records equal: no ramp and no head is touched. -/
theorem tame_of_records {s t : State} (h : t.resetHeld = s.resetHeld) (p : t.permit = s.permit) (r : t.ramps = s.ramps)
    (g : t.heads = s.heads) : Tame s t :=
  ⟨h, p, fun n => by rw [State.ramp, r, State.ramp], fun x hx => by rw [State.head, g] at hx; exact hx⟩

theorem OnlyLinks.tame {s t : State} (h : OnlyLinks s t) : Tame s t :=
  tame_of_records h.resetHeld h.permit h.ramps h.heads

theorem tame_of_heads {s t : State} (h : RestSame s t) (hs : ∀ n, (t.ramp n).state = (s.ramp n).state)
    (hh : t.heads = s.heads) : Tame s t :=
  ⟨h.resetHeld, h.permit, hs, fun g x => by rw [State.head, hh] at x; exact x⟩

theorem ZonesOnly.tame {s t : State} (h : ZonesOnly s t) : Tame s t :=
  tame_of_heads h.toRestSame (fun n => by rw [h.ramps]) h.heads

theorem tame_modRamp (s : State) (n : RampNo) {f : Ramp → Ramp} (hf : (f (s.ramp n)).state = (s.ramp n).state) :
    Tame s (s.modRamp n f) :=
  ⟨rfl, rfl, fun m => by rw [State.ramp_modRamp]; split <;> simp_all, fun _ => id⟩

theorem tame_mapRamps (s : State) {f : Ramp → Ramp} (hf : ∀ r, (f r).state = r.state) :
    Tame s { s with ramps := s.ramps.map f } :=
  ⟨rfl, rfl, fun n => by rw [State.ramp, Table.get_map, hf]; rfl, fun _ => id⟩

theorem tame_modChan (s : State) (c : Chan) (f : Channel → Channel) : Tame s (s.modChan c f) :=
  tame_of_records rfl rfl rfl rfl

theorem tame_raise (s : State) (k : NoticeKind) (i : Nat) (d : Detail) (live : Bool) : Tame s (s.raise k i d live) :=
  (State.raise_onlyLinks s k i d live).tame

theorem tame_rampNotice (s : State) (n : RampNo) (cause : RampCause) : Tame s (s.rampNotice n cause) :=
  tame_raise s _ _ _ _

/-- A head set to what is not GREEN unless it was. -/
theorem tame_setHead (s : State) (h : HeadNo) {c : Head} (hc : c.aspect = .green → (s.head h).aspect = .green) :
    Tame s (s.setHead h c) := by
  refine ⟨rfl, rfl, fun _ => rfl, fun g => ?_⟩
  rw [State.head_setHead]
  split
  · next e => exact e ▸ hc
  · exact id

theorem tame_writeHead (s : State) (h : HeadNo) {c : Head} (hc : c.aspect = .green → (s.head h).aspect = .green) :
    Tame s (s.writeHead h c) := by
  refine ⟨by simp, by simp, fun n => by simp, fun g => ?_⟩
  rw [State.head_writeHead]
  split
  · next e => rw [Head.reprove_aspect]; exact e ▸ hc
  · exact id

theorem tame_eachLane {f : LaneNo → State → State} (hf : ∀ k t, Tame t (f k t)) (lanes : List LaneNo) (s : State) :
    Tame s (s.eachLane lanes f) :=
  State.eachLane_induct (P := Tame s) (fun k t h => h.trans (hf k t)) lanes (Tame.refl s)

theorem tame_eachRamp {f : RampNo → State → State} (hf : ∀ n t, Tame t (f n t)) (s : State) : Tame s (s.eachRamp f) :=
  State.eachRamp_induct (P := Tame s) (fun n t h => h.trans (hf n t)) (Tame.refl s)

theorem tame_eachHead {f : HeadNo → State → State} (hf : ∀ h t, Tame t (f h t)) (s : State) : Tame s (s.eachHead f) :=
  State.eachHead_induct (P := Tame s) (fun h t k => k.trans (hf h t)) (Tame.refl s)

/-! ### Changes of one ramp -/

/-- A change of one ramp: the law is to be seen at that ramp alone. -/
theorem State.GreensWarranted.of_refsOnly {s t : State} {n : RampNo} (h : s.GreensWarranted) (r : RefsOnly n s t)
    (hn : ∀ k, (t.head (headOf n k)).aspect = .green → (t.ramp n).showsGreen) : t.GreensWarranted := by
  intro g hg
  by_cases e : headRamp g = n
  · subst e
    exact hn (headLane g) (by simpa using hg)
  · rw [r.1.heads g e] at hg
    rw [r.1.ramps _ e]
    exact h g hg

theorem State.Lawful.of_refsOnly {s t : State} {n : RampNo} (h : s.Lawful) (r : RefsOnly n s t)
    (hn : ∀ k, (t.head (headOf n k)).aspect = .green → (t.ramp n).showsGreen)
    (hp : (t.ramp n).running = true → s.permit = true) : t.Lawful := by
  refine ⟨r.1.resetHeld.trans h.up, h.greens.of_refsOnly r hn, fun m hm => r.1.permit.trans ?_⟩
  by_cases e : m = n
  · subst e
    exact hp hm
  · rw [r.1.ramps m e] at hm
    exact h.permit m hm

/-- The ramp stops, its heads DARK. -/
theorem State.Lawful.stopped {s t : State} {n : RampNo} (h : s.Lawful) (r : RefsOnly n s t)
    (dark : ∀ k, (t.head (headOf n k)).aspect = .dark) (hs : (t.ramp n).running = false) : t.Lawful :=
  h.of_refsOnly r (fun k x => by simp [dark k] at x) (fun x => by simp [hs] at x)

/-- A running ramp comes to, or stays in, a state in which its heads may show GREEN. -/
theorem State.Lawful.showing {s t : State} {n : RampNo} (h : s.Lawful) (r : RefsOnly n s t)
    (hs : (s.ramp n).running = true) (ht : (t.ramp n).showsGreen) : t.Lawful :=
  h.of_refsOnly r (fun _ _ => ht) (fun _ => h.permit n hs)

/-! ### The queue and the lane cycle -/

section
variable {s : State} {n : RampNo}

theorem State.showsGreen_tryFlushExit (h : (s.ramp n).showsGreen) : ((s.tryFlushExit n).ramp n).showsGreen := by
  rw [State.ramp_tryFlushExit]
  split
  · exact .inl rfl
  · exact h

theorem State.Lawful.tryFlushExit (h : s.Lawful) (n : RampNo) : (s.tryFlushExit n).Lawful := by
  by_cases hx : (s.ramp n).flushExitMet = true
  · obtain ⟨_, -, hf, -⟩ := (s.ramp n).flushExitMet_iff_plan.1 hx
    have hg : (s.ramp n).showsGreen := .inr (.inl hf)
    exact h.showing (s.tryFlushExit_rampOnly n).refs hg.running (State.showsGreen_tryFlushExit hg)
  · rwa [State.tryFlushExit_none (by simpa using hx)]

theorem State.showsGreen_takeGreenStart (h : (s.ramp n).showsGreen) (k : LaneNo) :
    ((s.takeGreenStart n k).ramp n).showsGreen := by
  unfold State.takeGreenStart
  split
  · exact h
  · split
    · exact h
    · exact State.showsGreen_tryFlushExit (by rw [State.ramp_modRamp_same]; exact h)

theorem State.showsGreen_greenStarts (h : (s.ramp n).showsGreen) (lanes : List LaneNo) :
    ((s.greenStarts n lanes).ramp n).showsGreen := by
  refine State.eachLane_induct (P := fun t => (t.ramp n).showsGreen) (fun k t => (State.showsGreen_takeGreenStart · k)) _ ?_
  refine State.eachLane_induct (P := fun t => (t.ramp n).showsGreen) (fun k t ht => by simpa [State.lightGreen] using ht) _ ?_
  rw [State.forgetEmpty, State.ramp_modRamp_same]
  exact h

theorem State.showsGreen_tryRelease (h : (s.ramp n).showsGreen) : ((s.tryRelease n).ramp n).showsGreen := by
  unfold State.tryRelease
  split
  · exact h
  · split
    · exact State.showsGreen_greenStarts h _
    · exact h

theorem State.Lawful.tryRelease (h : s.Lawful) (n : RampNo) : (s.tryRelease n).Lawful := by
  cases hc : (s.ramp n).cycling with
  | false => rwa [State.tryRelease_idle hc]
  | true =>
    have hg := Ramp.showsGreen_of_cycling hc
    exact h.showing (s.tryRelease_rampOnly n).refs hg.running (State.showsGreen_tryRelease hg)

end

theorem tame_forgetEmpty (s : State) (n : RampNo) : Tame s (s.forgetEmpty n) := tame_modRamp s n rfl

theorem tame_reportEmpty (s : State) (n : RampNo) : Tame s (s.reportEmpty n) := by
  unfold State.reportEmpty
  split
  · exact tame_modRamp s n rfl
  · exact Tame.refl s

theorem tame_setCycle (s : State) (h : HeadNo) {c : CycleState} (hc : c.aspect ≠ .green) : Tame s (s.setCycle h c) :=
  tame_writeHead s h fun x => absurd x hc

/-- A comparison with the interval commands RED or nothing. -/
theorem tame_judgeLane (s : State) (n : RampNo) (p : Plan) (k : LaneNo) : Tame s (s.judgeLane n p k) := by
  unfold State.judgeLane
  split
  · split
    · exact tame_setCycle s _ (by decide)
    · exact Tame.refl s
  · split
    · exact (tame_forgetEmpty s n).trans (tame_setCycle _ _ (by decide))
    · exact Tame.refl s
  all_goals exact Tame.refl s

theorem State.Lawful.takeInterval {s : State} (h : s.Lawful) (n : RampNo) : (s.takeInterval n).Lawful := by
  unfold State.takeInterval
  split
  · exact h
  · split
    · exact ((h.tame (tame_eachLane (fun k t => tame_judgeLane t n _ k) _ s)).tryRelease n).tame (tame_reportEmpty _ n)
    · exact h

theorem State.Lawful.laneBecomesReady {s : State} (h : s.Lawful) (n : RampNo) (k : LaneNo) :
    (s.laneBecomesReady n k).Lawful := by
  unfold State.laneBecomesReady
  split
  · exact h
  · exact ((h.tame (tame_eachLane (fun k t => tame_judgeLane t n _ k) _ s)).tryRelease n).tame (tame_reportEmpty _ n)

theorem State.Lawful.takeEmpty {s : State} (h : s.Lawful) (n : RampNo) : (s.takeEmpty n).Lawful := by
  unfold State.takeEmpty
  split
  · split
    · exact (h.tame (tame_modRamp s n rfl)).tryFlushExit n
    · exact h.tame (tame_modRamp s n rfl)
  · exact h

theorem tame_finishGreen (s : State) (n : RampNo) (p : Plan) (k : LaneNo) : Tame s (s.finishGreen n p k) := by
  unfold State.finishGreen
  split
  · exact tame_writeHead s _ fun x => by simp [Head.aspect, CycleState.aspect] at x
  · exact Tame.refl s

theorem tame_endGreens (s : State) (n : RampNo) (k : LaneNo) : Tame s (s.endGreens n k) := by
  unfold State.endGreens
  split
  · exact Tame.refl s
  · exact tame_eachLane (fun j t => tame_finishGreen t n _ j) _ s

theorem tame_takeDemand (s : State) (n : RampNo) (k : LaneNo) (on : Bool) : Tame s (s.takeDemand n k on) := by
  unfold State.takeDemand
  simp only []
  split
  · exact Tame.trans (tame_setHead s _ (by exact id)) (tame_forgetEmpty _ n)
  · exact tame_setHead s _ id

theorem tame_takeDemandHealth (s : State) (n : RampNo) (k : LaneNo) (h : Health) : Tame s (s.takeDemandHealth n k h) := by
  unfold State.takeDemandHealth
  simp only []
  split
  · exact tame_setHead s _ id
  · exact Tame.trans (tame_setHead s _ (by exact id)) (tame_forgetEmpty _ n)

/-! ### The transitions of a ramp -/

theorem tame_darken (s : State) (n : RampNo) : Tame s (s.darken n) :=
  tame_eachLane (fun _ t => tame_writeHead t _ fun x => by simp at x) _ s

theorem tame_leaveRunning (s : State) (n : RampNo) : Tame s (s.leaveRunning n) := by
  unfold State.leaveRunning
  have ht := tame_modRamp s n (f := fun r => { r.installAmendment with emptyJudged := false })
    (Ramp.installAmendment_state _)
  simp only []
  split
  · exact ht.trans (State.liveClear_onlyLinks _ _ _).tame
  · exact ht

section
variable {s : State}

theorem State.Lawful.park (h : s.Lawful) (n : RampNo) (stop : StopCause) (cause : RampCause) :
    (s.park n stop cause).Lawful :=
  h.stopped (s.park_rampOnly n stop cause).refs (s.park_dark n stop cause) (by rw [State.ramp_park]; rfl)

theorem State.Lawful.vacate (h : s.Lawful) (n : RampNo) (cause : RampCause) : (s.vacate n cause).Lawful :=
  h.stopped (s.vacate_refsOnly n cause) (s.vacate_dark n cause) (by rw [State.ramp_vacate]; rfl)

theorem State.Lawful.enterLockout (h : s.Lawful) (n : RampNo) (g : HeadNo) (f : FaultClass) :
    (s.enterLockout n g f).Lawful :=
  h.stopped (s.enterLockout_rampOnly n g f).refs (s.enterLockout_dark n g f) (by rw [State.ramp_enterLockout]; rfl)

theorem State.installNew_dark (s : State) (n : RampNo) (set : Settled) (stop : StopCause) (k : LaneNo) :
    ((s.installNew n set stop).head (headOf n k)).aspect = .dark := by
  rw [State.head_installNew]
  simp

theorem State.Lawful.installNew (h : s.Lawful) (n : RampNo) (set : Settled) (stop : StopCause) :
    (s.installNew n set stop).Lawful :=
  h.stopped (s.installNew_refsOnly n set stop) (s.installNew_dark n set stop) (by rw [State.ramp_installNew]; rfl)

/-- A ramp opens under PERMIT: RED alone is commanded. -/
theorem State.Lawful.enterOpening (h : s.Lawful) {n : RampNo} (p : Plan) (hp : s.permit = true)
    (hg : ¬ (s.ramp n).showsGreen) : (s.enterOpening n p).Lawful := by
  refine h.of_refsOnly (s.enterOpening_rampOnly n p).refs (fun k hk => absurd ?_ hg) fun _ => hp
  have hold : (s.head (headOf n k)).aspect = .green → (s.ramp n).showsGreen := fun x => by
    simpa using h.greens (headOf n k) x
  unfold State.enterOpening at hk
  simp only [] at hk
  split at hk
  · rw [State.head_enterStartRed, State.modRamp_head] at hk
    split at hk
    · simp [Head.aspect, CycleState.aspect] at hk
    · exact hold hk
  · exact hold hk

theorem tame_enterStartRed (s : State) (n : RampNo) (p : Plan) : Tame s (s.enterStartRed n p) :=
  (tame_modRamp s n rfl).trans (tame_eachLane (fun _ t => tame_setCycle t _ (by decide)) _ _)

theorem State.Lawful.takeAlarm (h : s.Lawful) {n : RampNo} (p : Plan) (hr : (s.ramp n).running = true) :
    (s.takeAlarm n p).Lawful := by
  refine State.Lawful.takeInterval (State.Lawful.tame ?_ (tame_raise _ _ _ _ _)) n
  exact h.showing (s.modRamp_rampOnly n _).refs hr (.inr (.inl (by rw [State.ramp_modRamp_same])))

theorem State.Lawful.meteringBegun (h : s.Lawful) {n : RampNo} (p : Plan) (hr : (s.ramp n).running = true) :
    (s.meteringBegun n p).Lawful := by
  refine h.showing (RampOnly.refs ?_) hr (.inl (by rw [State.ramp_meteringBegun]))
  exact ((s.modRamp_rampOnly n _).trans (State.eachLane_rampOnly (fun k t => t.writeHead_lane_rampOnly n k _) _ _)).trans
    (State.rampNotice_rampOnly _ n n _)

theorem State.Lawful.enterMetering (h : s.Lawful) {n : RampNo} (p : Plan) (hr : (s.ramp n).running = true) :
    (s.enterMetering n p).Lawful := by
  have hm : (s.meteringReleased n p).Lawful := ((h.meteringBegun p hr).tryRelease n).tame (tame_reportEmpty _ n)
  rw [State.enterMetering_eq]
  split
  · next hst => exact hm.takeAlarm p (Ramp.showsGreen.running (.inl hst.1))
  · exact hm

theorem State.Lawful.endClosing (h : s.Lawful) (n : RampNo) : (s.endClosing n).Lawful := by
  unfold State.endClosing
  split
  · exact h.vacate n _
  · exact h.park n _ _

theorem State.Lawful.endSettle (h : s.Lawful) {n : RampNo} (p : Plan) (hg : (s.ramp n).showsGreen) :
    (s.endSettle n p).Lawful := by
  unfold State.endSettle
  split
  · exact h.endClosing n
  · refine h.showing (RampOnly.refs ?_) hg.running ?_
    · exact (s.modRamp_rampOnly n _).trans (State.eachLane_rampOnly (fun k t => t.writeHead_lane_rampOnly n k _) _ _)
    · refine State.eachLane_induct (P := fun t => (t.ramp n).showsGreen) (fun k t ht => by simpa using ht) _ ?_
      rw [State.ramp_modRamp_same]
      exact hg

theorem State.Lawful.trySettle (h : s.Lawful) (n : RampNo) : (s.trySettle n).Lawful := by
  unfold State.trySettle
  split
  · exact h
  · split
    · next hd =>
      obtain ⟨_, -, hst, -⟩ := (s.settledDue_iff n).1 hd
      exact h.endSettle _ (.inr (.inr hst))
    · exact h

theorem State.Lawful.enterClosing (h : s.Lawful) {n : RampNo} (hr : (s.ramp n).running = true) (retire : Bool)
    (cause : RampCause) : (s.enterClosing n retire cause).Lawful := by
  have hl := tame_leaveRunning s n
  refine State.Lawful.trySettle (State.Lawful.tame ?_ (tame_rampNotice _ n cause)) n
  exact (h.tame hl).showing (State.modRamp_rampOnly _ n _).refs ((Ramp.running_of_state (hl.states n)).trans hr)
    (.inr (.inr (by rw [State.ramp_modRamp_same])))

theorem tame_replacePlan (s : State) (n : RampNo) (old : Plan) (set : Settled) : Tame s (s.replacePlan n old set) := by
  unfold State.replacePlan
  simp only []
  have hd : Tame s ((s.darken n).modRamp n fun r => r.replaced old set) :=
    (tame_darken s n).trans (tame_modRamp _ n rfl)
  have hc : ∀ t : State, Tame t (t.reconcile n old.layout.claims set.plan.layout.claims) := fun t =>
    have ho := t.rampsHeads_reconcile n old.layout.claims set.plan.layout.claims
    have hr := (t.reconcile_refsOnly n old.layout.claims set.plan.layout.claims).1
    tame_of_records hr.resetHeld hr.permit ho.1 ho.2
  refine (hd.trans (hc _)).trans (tame_eachLane (fun k t => tame_setHead t _ fun x => ?_) _ _)
  revert x
  unfold carryDemand
  repeat' split
  all_goals exact id

end

end Sys2Proof.Machine
end

section
/-! The law of R109 through the commands, the events and the resets, and through the step. -/

namespace Sys2Proof.Machine

/-! ### Reports (R46) -/

section
variable {s : State}

theorem Ramp.takeEntry_state (r : Ramp) (c : Chan) : (r.takeEntry c).state = r.state := by
  unfold Ramp.takeEntry
  split <;> rfl

theorem Ramp.retime_state (old new : Ramp) : (old.retime new).state = new.state := by
  unfold Ramp.retime
  split <;> rfl

theorem Ramp.takeQueueEnd_state (r : Ramp) (c : Chan) (on : Bool) : (r.takeQueueEnd c on).state = r.state := by
  unfold Ramp.takeQueueEnd
  split
  · exact Ramp.retime_state _ _
  · rfl

theorem Ramp.takeHealth_state (r : Ramp) (c : Chan) (h : Health) : (r.takeHealth c h).state = r.state := by
  unfold Ramp.takeHealth
  split
  · exact Ramp.retime_state _ _
  · rfl

theorem State.Lawful.takePassage (h : s.Lawful) (n : RampNo) (k : LaneNo) (c : Chan) : (s.takePassage n k c).Lawful := by
  unfold State.takePassage
  split
  · exact (h.tame (tame_modRamp s n rfl)).tryFlushExit n
  · exact h

theorem tame_takeDemandAt (s : State) (n : RampNo) (c : Chan) (on : Bool) : Tame s (s.takeDemandAt n c on) := by
  refine tame_eachLane (fun k t => ?_) _ s
  split
  · exact tame_takeDemand t n k on
  · exact Tame.refl t

theorem tame_takeHealthAt (s : State) (n : RampNo) (c : Chan) (h : Health) : Tame s (s.takeHealthAt n c h) := by
  refine (tame_modRamp s n (Ramp.takeHealth_state _ c h)).trans (tame_eachLane (fun k t => ?_) _ _)
  split
  · exact tame_takeDemandHealth t n k h
  · exact Tame.refl t

theorem State.Lawful.reportOn (h : s.Lawful) (c : Chan) (k : Option Kind) : (s.reportOn c k).Lawful := by
  unfold State.reportOn
  split
  · exact h.tame (tame_mapRamps s fun r => r.takeEntry_state c)
  · exact State.eachRamp_induct (P := State.Lawful)
      (fun n t ht => State.eachLane_induct (P := State.Lawful) (fun j u hu => hu.takePassage n j c) _ ht) h
  · exact h.tame (tame_eachRamp (fun n t => tame_takeDemandAt t n c true) s)
  · exact h.tame (tame_mapRamps s fun r => r.takeQueueEnd_state c true)
  · exact h
  · exact h

theorem tame_reportOff (s : State) (c : Chan) (k : Option Kind) : Tame s (s.reportOff c k) := by
  unfold State.reportOff
  split
  · exact tame_eachRamp (fun n t => tame_takeDemandAt t n c false) s
  · exact tame_mapRamps s fun r => r.takeQueueEnd_state c false
  all_goals exact Tame.refl s

theorem State.Lawful.releases (h : s.Lawful) : s.releases.Lawful :=
  State.eachRamp_induct (P := State.Lawful) (fun n _ ht => ht.tryRelease n) h

theorem State.Lawful.releaseCalled (h : s.Lawful) (c : Chan) : (s.releaseCalled c).Lawful := by
  refine State.eachRamp_induct (P := State.Lawful) (fun n t ht => ?_) h
  split
  · exact ht.tryRelease n
  · exact ht

/-! ### Presences (R44, R45, R52) -/

theorem State.Lawful.noteQualified (h : s.Lawful) (c : Chan) : (s.noteQualified c).Lawful := by
  unfold State.noteQualified
  split
  · exact (h.tame (tame_modChan s c _)).reportOn c _
  · exact h

theorem State.Lawful.tryQualify (h : s.Lawful) (c : Chan) : (s.tryQualify c).Lawful := by
  unfold State.tryQualify
  split
  · exact (h.noteQualified c).releaseCalled c
  · exact h.noteQualified c

theorem tame_tryStuck (s : State) (c : Chan) : Tame s (s.tryStuck c) := by
  unfold State.tryStuck
  split
  · exact tame_modChan s c _
  · exact Tame.refl s

theorem State.Lawful.presenceOnset (h : s.Lawful) (c : Chan) : (s.presenceOnset c).Lawful := by
  unfold State.presenceOnset
  split
  · exact h
  · split
    · exact h.tame (tame_modChan s c _)
    · exact (h.tame (tame_modChan s c _)).tryQualify c

theorem tame_finishPresence (s : State) (c : Chan) : Tame s (s.finishPresence c) := by
  unfold State.finishPresence
  split
  · exact (tame_modChan s c _).trans (tame_reportOff _ c _)
  · split
    · exact tame_modChan s c _
    · exact tame_modChan s c _

theorem State.Lawful.presenceEnd (h : s.Lawful) (c : Chan) : (s.presenceEnd c).Lawful := by
  unfold State.presenceEnd
  split
  · exact h
  · split
    · exact h.tame (tame_modChan s c _)
    · exact ((h.tryQualify c).tame (tame_tryStuck _ c)).tame (tame_finishPresence _ c)

/-! ### Proving (R118 to R120) -/

theorem tame_provingInputs (s : State) (h : HeadNo) (red green : Bool) : Tame s (s.provingInputs h red green) := by
  unfold State.provingInputs
  simp only []
  split
  · exact tame_setHead s h id
  · exact tame_writeHead s h id

theorem tame_readLamps (s : State) : Tame s s.readLamps := tame_eachHead (fun h t => tame_writeHead t h id) s

theorem tame_markDue (s : State) : Tame s s.markDue :=
  ⟨rfl, rfl, fun _ => rfl, fun h x => by rw [State.head_markDue, Head.markDue_eq] at x; exact x⟩

theorem State.Lawful.dealWith (h : s.Lawful) (g : HeadNo) (f : FaultClass) (a : FaultAction) :
    (s.dealWith g f a).Lawful := by
  cases a with
  | lockout => exact h.enterLockout _ g f
  | lockoutAgain => exact h.tame (tame_raise s _ _ _ _)
  | lamp => exact h.tame (tame_raise s _ _ _ _)
  | nothing => exact h

theorem State.Lawful.tryDeclare (h : s.Lawful) (g : HeadNo) : (s.tryDeclare g).Lawful := by
  unfold State.tryDeclare
  split
  · exact h
  · unfold State.declare
    split
    · exact h.tame (tame_setHead s g (by exact id))
    · exact State.Lawful.dealWith (h.tame (tame_setHead s g (by exact id))) g _ _

theorem State.Lawful.declareAll (h : s.Lawful) : s.declareAll.Lawful :=
  State.eachHead_induct (P := State.Lawful) (fun g _ ht => ht.tryDeclare g) (h.tame (tame_markDue s))

/-! ### The window close (R50) -/

theorem State.Lawful.finishReadings (h : s.Lawful) : s.finishReadings.Lawful := by
  have ht : (s.eachChan fun c t => (t.noteQualified c).tryStuck c).Lawful :=
    State.eachChan_induct (P := State.Lawful) (fun c t ht => (ht.noteQualified c).tame (tame_tryStuck _ c)) h
  unfold State.finishReadings
  exact ht.releases

theorem tame_takeSummary (s : State) (sum : Summary) : Tame s (s.takeSummary sum) := by
  have h := (State.evaluateZones_zonesOnly s sum).tame
  unfold State.takeSummary
  generalize s.evaluateZones sum = out at h
  exact h.trans (tame_of_records rfl rfl rfl rfl)

theorem tame_publish (s : State) (w : Nat) : Tame s (s.publish w) := by
  have hn := (State.detectorNotices_onlyLinks s s.chans (s.chans.map fun r => r.judged s.settings)).1.tame
  unfold State.publish
  refine Tame.trans (hn.trans ?_) (tame_takeSummary _ _)
  exact tame_of_records rfl rfl rfl rfl

theorem tame_healthReports (s : State) (old : Table Channel 64) : Tame s (s.healthReports old) := by
  refine State.eachChan_induct (P := Tame s) (fun c t h => ?_) (Tame.refl s)
  split
  · exact h.trans (tame_eachRamp (fun n u => tame_takeHealthAt u n c _) t)
  · exact h

theorem State.Lawful.afterStart (h : s.Lawful) (old : Table Channel 64) (fresh : Bool) : (s.afterStart old fresh).Lawful := by
  have hq : ((s.healthReports old).eachChan fun c v => v.noteQualified c).Lawful :=
    State.eachChan_induct (P := State.Lawful) (fun c _ ht => ht.noteQualified c) (h.tame (tame_healthReports s old))
  unfold State.afterStart
  simp only []
  split
  · exact hq.releases.declareAll
  · exact hq.releases

theorem tame_startWindow (s : State) : Tame s s.startWindow := tame_of_records rfl rfl rfl rfl

theorem State.Lawful.closeWindow (h : s.Lawful) (w : Nat) : (s.closeWindow w).Lawful := by
  unfold State.closeWindow
  exact ((h.finishReadings.tame (tame_publish _ w)).tame (tame_startWindow _)).afterStart _ _

/-! ### Bulletins (R61) -/

theorem Ramp.bulletinMetering_state (r : Ramp) (n : RampNo) (sum : Summary) (b : Bulletin) :
    (r.bulletinMetering n sum b).state = r.state := by
  unfold Ramp.bulletinMetering
  split
  · rfl
  · exact r.installAmendment_state

theorem Ramp.installFlushing_state (r : Ramp) : r.installFlushing.state = r.state := by
  unfold Ramp.installFlushing
  simp only []
  repeat' split
  · rfl
  all_goals exact r.installAmendment_state

theorem Ramp.bulletinFlushing_state (r : Ramp) (n : RampNo) (sum : Summary) (b : Bulletin) :
    (r.bulletinFlushing n sum b).state = r.state := by
  unfold Ramp.bulletinFlushing
  split
  · rfl
  · exact r.installFlushing_state

theorem State.Lawful.bulletinAt (h : s.Lawful) (n : RampNo) (sum : Summary) (b : Bulletin) :
    (s.bulletinAt n sum b).Lawful := by
  unfold State.bulletinAt
  split
  case h_1 => exact (h.tame (tame_modRamp s n (Ramp.bulletinMetering_state _ n sum b))).takeInterval n
  case h_2 =>
    have ht := h.tame (tame_modRamp s n (f := fun r => r.bulletinFlushing n sum b) (Ramp.bulletinFlushing_state _ n sum b))
    refine State.Lawful.tryFlushExit ?_ n
    split
    · exact ht.takeInterval n
    · exact ht
  all_goals exact h

/-! ### Links and settings (R131, R133) -/

theorem tame_tryLapse (s : State) (l : Link) : Tame s (s.tryLapse l) := by
  unfold State.tryLapse
  split
  · exact tame_of_heads (s.lapse_rest l) (fun n => by rw [State.lapse_ramp]; rfl) (by simp [State.lapse])
  · exact Tame.refl s

theorem tame_installTimes (s : State) (loc centre : Nat) : Tame s (s.installTimes loc centre) := by
  unfold State.installTimes
  refine Tame.trans (Tame.trans ?_ (tame_tryLapse _ .loc)) (tame_tryLapse _ .centre)
  exact tame_of_records rfl rfl rfl rfl

theorem tame_corridorSet (s : State) (a : CorridorArgs) : Tame s (s.corridorSet a).1 := by
  unfold State.corridorSet
  split
  · exact Tame.refl s
  · refine Tame.trans ?_ (tame_installTimes _ _ _)
    exact tame_of_records rfl rfl rfl rfl

/-! ### The plan store (R156 to R161) -/

theorem tame_readSlot (s : State) (k : SlotNo) : Tame s (s.readSlot k).1 := by
  unfold State.readSlot
  repeat' split
  all_goals exact tame_of_records rfl rfl rfl rfl

theorem tame_planSource (s : State) (source slot : Byte) : Tame s (s.planSource source slot).1 := by
  unfold State.planSource
  repeat' split
  all_goals first | exact tame_readSlot s _ | exact Tame.refl s

theorem State.Lawful.restoreRamp (h : s.Lawful) (n : RampNo) (set : Settled) : (s.restoreRamp n set).1.Lawful := by
  have hi := h.installNew n set .restored
  unfold State.restoreRamp
  simp only []
  split
  · next ho =>
    simp only [Bool.and_eq_true] at ho
    refine hi.enterOpening _ ((s.installNew_refsOnly n set .restored).1.permit.trans ho.2) ?_
    rw [State.ramp_installNew]
    simp [Ramp.showsGreen, Ramp.installed]
  · exact hi

theorem State.Lawful.scanImage (h : s.Lawful) (img : Table Byte 64) : (s.scanImage img).1.Lawful := by
  unfold State.scanImage
  repeat' split
  all_goals first | exact h.restoreRamp _ _ | exact h

theorem State.Lawful.scanSlot (h : s.Lawful) (k : SlotNo) : (s.scanSlot k).1.Lawful := by
  have hr := h.tame (tame_readSlot s k)
  unfold State.scanSlot
  split
  · next e => rw [e] at hr; exact hr
  · next e => rw [e] at hr; exact hr.scanImage _

theorem State.Lawful.scanStep (h : s.Lawful) (k : SlotNo) : (s.scanStep k).Lawful := by
  unfold State.scanStep
  simp only []
  split
  · exact (h.scanSlot k).tame (tame_of_records rfl rfl rfl rfl)
  · refine State.Lawful.tame ?_ (tame_raise _ _ _ _ _)
    exact (h.scanSlot k).tame (tame_of_records rfl rfl rfl rfl)

theorem tame_completeStore (s : State) (b : StoreBusy) (good : Bool) : Tame s (s.completeStore b good) := by
  unfold State.completeStore
  simp only []
  split
  all_goals exact tame_of_records rfl rfl rfl rfl

/-! ### Blocks of the commands -/

/-- What a command's block keeps when it refuses or works on a numbered ramp. -/
theorem State.onRamp_keeps {P : State → Prop} {ramp : Byte} {f : RampNo → State × Reply} (hs : P s)
    (hf : ∀ n, P (f n).1) : P (s.onRamp ramp f).1 := by
  unfold State.onRamp
  split
  · exact hs
  · exact hf _

/-- The same for a ramp that is not VACANT, with its plan. -/
theorem State.onPlan_keeps {P : State → Prop} {ramp : Byte} {f : RampNo → Plan → State × Reply} (hs : P s)
    (hf : ∀ n p, P (f n p).1) : P (s.onPlan ramp f).1 := by
  refine State.onRamp_keeps hs fun n => ?_
  split
  · exact hs
  · exact hs
  · exact hf _ _

theorem State.Lawful.withPlan (h : s.Lawful) {n : RampNo} {source slot : Byte} {f : State → Settled → State}
    (hf : ∀ (t : State) set, t.Lawful → (f t set).Lawful) : (s.withPlan n source slot f).1.Lawful := by
  have hp := h.tame (tame_planSource s source slot)
  unfold State.withPlan
  split
  · next e => rw [e] at hp; exact hp
  · next e =>
    rw [e] at hp
    split
    · exact hp
    · exact hf _ _ hp

theorem State.Lawful.commission (h : s.Lawful) (ramp source slot : Byte) : (s.commission ramp source slot).1.Lawful := by
  refine State.onRamp_keeps h fun n => ?_
  split
  · exact h
  · exact h.withPlan fun t set ht => (ht.installNew n set .command).tame (tame_rampNotice _ n _)

theorem State.Lawful.replace (h : s.Lawful) (l : Link) (ramp source slot : Byte) :
    (s.replace l ramp source slot).1.Lawful := by
  refine State.onPlan_keeps h fun n p => ?_
  split
  · exact h
  · split
    · exact h
    · exact h.withPlan fun t set ht => ht.tame (tame_replacePlan t n p set)

theorem Ramp.amend_state (r : Ramp) (a : Amendment) : (r.amend a).state = r.state := by
  unfold Ramp.amend
  simp only []
  split
  · rfl
  · exact Ramp.installAmendment_state _

theorem State.Lawful.amend (h : s.Lawful) (l : Link) (ramp : Byte) (control : Table Byte 16) (target : Byte) :
    (s.amend l ramp control target).1.Lawful := by
  refine State.onPlan_keeps h fun n p => ?_
  split
  · exact h
  · split
    · exact h
    · dsimp only
      exact h.tame (tame_modRamp s n (Ramp.amend_state _ _))

theorem State.Lawful.retire (h : s.Lawful) (l : Link) (ramp : Byte) : (s.retire l ramp).1.Lawful := by
  refine State.onPlan_keeps h fun n p => ?_
  split
  · exact h
  · cases hst : (s.ramp n).state with
    | vacant => exact h
    | parked | lockout | opening => exact h.vacate n _
    | metering | flushing => exact h.enterClosing (by simp [Ramp.running, hst]) _ _
    | closing =>
      dsimp only
      exact h.tame (tame_modRamp s n rfl)

theorem State.Lawful.openCommand (h : s.Lawful) (l : Link) (ramp : Byte) : (s.openCommand l ramp).1.Lawful := by
  refine State.onPlan_keeps h fun n p => ?_
  cases hst : (s.ramp n).state with
  | vacant | closing | lockout => exact h
  | opening | metering | flushing => simp only []; split <;> exact h
  | parked =>
    simp only []
    split
    · exact h
    · split
      · exact h
      · next hp =>
        exact (h.enterOpening p (by simpa using hp) (by simp [Ramp.showsGreen, hst])).tame (tame_rampNotice _ n _)

theorem State.Lawful.closeCommand (h : s.Lawful) (l : Link) (ramp : Byte) : (s.closeCommand l ramp).1.Lawful := by
  refine State.onPlan_keeps h fun n p => ?_
  split
  · exact h
  · split
    · exact h
    · cases hst : (s.ramp n).state with
      | vacant | lockout | parked | closing => exact h
      | opening => exact (h.tame (tame_leaveRunning s n)).park n _ _
      | metering | flushing => exact h.enterClosing (by simp [Ramp.running, hst]) _ _

theorem State.Lawful.clearLockout (h : s.Lawful) (l : Link) (ramp : Byte) : (s.clearLockout l ramp).1.Lawful := by
  refine State.onPlan_keeps h fun n p => ?_
  split
  · exact h
  · split
    · exact h
    · split
      · exact h
      · split
        · exact h.vacate n _
        · exact h.park n _ _

theorem tame_overrideCommand (s : State) (l : Link) (ramp : Byte) (rate duration : Word) :
    Tame s (s.overrideCommand l ramp rate duration).1 := by
  refine State.onPlan_keeps (Tame.refl s) fun n p => ?_
  split
  · exact Tame.refl s
  · split
    · exact Tame.refl s
    · dsimp only
      exact tame_modRamp s n rfl

theorem tame_endOverride (s : State) (l : Link) (ramp : Byte) : Tame s (s.endOverride l ramp).1 := by
  refine State.onPlan_keeps (Tame.refl s) fun n p => ?_
  split
  · exact Tame.refl s
  · dsimp only
    exact tame_modRamp s n rfl

theorem Ramp.take_state (r : Ramp) (l : Link) (takeover : Bool) : (r.take l takeover).1.state = r.state := by
  have he : r.endCentreOverride.state = r.state := by
    unfold Ramp.endCentreOverride
    repeat' split
    all_goals rfl
  unfold Ramp.take
  repeat' split
  all_goals first | rfl | exact he

theorem Ramp.yieldTo_state (r : Ramp) (l : Link) : (r.yieldTo l).1.state = r.state := by
  unfold Ramp.yieldTo
  repeat' split
  all_goals rfl

theorem tame_authorityAll (s : State) {f : Ramp → Ramp × AuthorityOutcome} (hf : ∀ r, (f r).1.state = r.state) :
    Tame s (s.authorityAll f).1 := tame_mapRamps s hf

theorem tame_authorityOne (s : State) (ramp : Byte) {f : Ramp → Ramp × AuthorityOutcome}
    (hf : ∀ r, (f r).1.state = r.state) : Tame s (s.authorityOne ramp f).1 := by
  unfold State.authorityOne
  split
  · exact tame_authorityAll s hf
  · exact State.onRamp_keeps (Tame.refl s) fun n => tame_modRamp s n (f := fun r => (f r).1) (hf _)

theorem tame_zoneDefine (s : State) (l : Link) (a : ZoneDefineArgs) : Tame s (s.zoneDefine l a).1 := by
  have hd : ∀ z rec, Tame s (s.defineZone z rec) := fun z rec => by
    obtain ⟨-, -, -, hr, hh, hrest, -⟩ := s.defineZone_effect z rec
    exact tame_of_heads hrest (fun n => by rw [hr]) hh
  unfold State.zoneDefine
  repeat' split
  all_goals first
    | exact Tame.refl s
    | unfold State.defineChecked; repeat' split
      all_goals first | exact Tame.refl s | exact hd _ _

theorem tame_zoneAmend (s : State) (l : Link) (a : ZoneAmendArgs) : Tame s (s.zoneAmend l a).1 := by
  have hz : ∀ z rec, Tame s (s.setZone z rec) := fun z rec => tame_of_records rfl rfl rfl rfl
  unfold State.zoneAmend
  simp only []
  repeat' split
  all_goals first
    | exact Tame.refl s
    | unfold State.amendChecked; repeat' split
      all_goals first | exact Tame.refl s | exact hz _ _

theorem tame_zoneDissolve (s : State) (l : Link) (zone : Byte) : Tame s (s.zoneDissolve l zone).1 := by
  have hd : ∀ z, Tame s (s.dissolveZone z) := fun z => by
    obtain ⟨-, -, -, hr, hh, hrest, -⟩ := s.dissolveZone_effect z
    exact tame_of_heads hrest (fun n => by rw [hr]; rfl) hh
  unfold State.zoneDissolve
  repeat' split
  all_goals first | exact Tame.refl s | exact hd _

theorem tame_stageWrite (s : State) (sect : Byte) (bytes : Table Byte 16) : Tame s (s.stageWrite sect bytes).1 := by
  unfold State.stageWrite
  repeat' split
  all_goals exact tame_of_records rfl rfl rfl rfl

theorem tame_stageClear (s : State) : Tame s s.stageClear.1 := by
  unfold State.stageClear
  split
  all_goals exact tame_of_records rfl rfl rfl rfl

theorem tame_stageFromRamp (s : State) (ramp : Byte) : Tame s (s.stageFromRamp ramp).1 := by
  unfold State.stageFromRamp
  repeat' split
  all_goals exact tame_of_records rfl rfl rfl rfl

theorem tame_fetch (s : State) (slot : Byte) : Tame s (s.fetch slot).1 := by
  unfold State.fetch
  split
  · exact Tame.refl s
  · split
    · exact Tame.refl s
    · next k _ _ =>
      have hr := tame_readSlot s k
      split
      · next e => rw [e] at hr; exact hr
      · next e => rw [e] at hr; exact hr.trans (tame_of_records rfl rfl rfl rfl)

theorem tame_storeCommand (s : State) (slot : Byte) : Tame s (s.storeCommand slot).1 := by
  unfold State.storeCommand
  repeat' split
  all_goals exact tame_of_records rfl rfl rfl rfl

theorem tame_eraseCommand (s : State) (slot : Byte) : Tame s (s.eraseCommand slot).1 := by
  unfold State.eraseCommand
  repeat' split
  all_goals exact tame_of_records rfl rfl rfl rfl

theorem tame_protect (s : State) (slot : Byte) : Tame s (s.protect slot).1 := by
  unfold State.protect
  repeat' split
  all_goals exact tame_of_records rfl rfl rfl rfl

theorem tame_unprotect (s : State) (l : Link) (slot : Byte) : Tame s (s.unprotect l slot).1 := by
  unfold State.unprotect
  repeat' split
  all_goals exact tame_of_records rfl rfl rfl rfl

theorem tame_lookup {α : Type} (s : State) (index : Option α) (f : α → List Byte) : Tame s (s.lookup index f).1 := by
  unfold State.lookup
  split <;> exact Tame.refl s

theorem tame_modSet (s : State) (l : Link) (f : List Notice → List Notice) : Tame s (s.modSet l f) :=
  (s.modSet_onlyLinks l f).tame

theorem tame_clearAllNotices (s : State) (l : Link) : Tame s (s.clearAllNotices l).1 :=
  tame_modSet s l fun _ => []

theorem tame_clearNotice (s : State) (l : Link) (kind subject : Byte) : Tame s (s.clearNotice l kind subject).1 := by
  unfold State.clearNotice
  repeat' split
  all_goals first | exact Tame.refl s | exact tame_modSet s l _

theorem tame_maskNotices (s : State) (l : Link) (kinds : List Byte) : Tame s (s.maskNotices l kinds).1 := by
  unfold State.maskNotices
  repeat' split
  all_goals first | exact Tame.refl s | exact (s.setLink_onlyLinks l _).tame

/-! ### Commands -/

theorem State.Lawful.frame (h : s.Lawful) {l : Link} {code : Byte} {run : State → State × Reply}
    (hr : ∀ t : State, t.Lawful → (run t).1.Lawful) : (s.frame l code run).Lawful :=
  State.frame_keeps (P := State.Lawful) (fun _ _ ho ht => ht.tame ho.tame) hr h

theorem State.Lawful.frameTame (h : s.Lawful) {l : Link} {code : Byte} {run : State → State × Reply}
    (hr : ∀ t : State, Tame t (run t).1) : (s.frame l code run).Lawful := h.frame fun t ht => ht.tame (hr t)

theorem State.Lawful.runCommand (h : s.Lawful) (i : Instr) : ∃ t, runCommand i s = .next t ∧ t.Lawful := by
  cases i
  case commission l r a b => exact ⟨_, rfl, h.frame fun t ht => ht.commission r a b⟩
  case replacePlan l r a b => exact ⟨_, rfl, h.frame fun t ht => ht.replace l r a b⟩
  case amend l r c v => exact ⟨_, rfl, h.frame fun t ht => ht.amend l r c v⟩
  case retire l r => exact ⟨_, rfl, h.frame fun t ht => ht.retire l r⟩
  case openRamp l r => exact ⟨_, rfl, h.frame fun t ht => ht.openCommand l r⟩
  case closeRamp l r => exact ⟨_, rfl, h.frame fun t ht => ht.closeCommand l r⟩
  case clearLockout l r => exact ⟨_, rfl, h.frame fun t ht => ht.clearLockout l r⟩
  case overrideRate l r v d => exact ⟨_, rfl, h.frameTame fun t => tame_overrideCommand t l r v d⟩
  case endOverride l r => exact ⟨_, rfl, h.frameTame fun t => tame_endOverride t l r⟩
  case takeAuthority l r => exact ⟨_, rfl, h.frameTame fun t => tame_authorityOne t r fun r => r.take_state l _⟩
  case takeAuthorityAll l => exact ⟨_, rfl, h.frameTame fun t => tame_authorityAll t fun r => r.take_state l _⟩
  case yieldAuthority l r => exact ⟨_, rfl, h.frameTame fun t => tame_authorityOne t r fun r => r.yieldTo_state l⟩
  case yieldAuthorityAll l => exact ⟨_, rfl, h.frameTame fun t => tame_authorityAll t fun r => r.yieldTo_state l⟩
  case lookupRampStatus | lookupRampPlan | lookupChannel | lookupChannelSummary | lookupZone | lookupBulletinEntry |
      lookupSlotDirectory | lookupCorridorSettings | lookupLinkStatus | lookupRestoreReport =>
    exact ⟨_, rfl, h.frameTame fun t => tame_lookup t _ _⟩
  case zoneDefine l a => exact ⟨_, rfl, h.frameTame fun t => tame_zoneDefine t l a⟩
  case zoneAmend l a => exact ⟨_, rfl, h.frameTame fun t => tame_zoneAmend t l a⟩
  case zoneDissolve l z => exact ⟨_, rfl, h.frameTame fun t => tame_zoneDissolve t l z⟩
  case corridorSet l a => exact ⟨_, rfl, h.frameTame fun t => tame_corridorSet t a⟩
  case stageWrite l k b => exact ⟨_, rfl, h.frameTame fun t => tame_stageWrite t k b⟩
  case stageClear l x => exact ⟨_, rfl, h.frameTame tame_stageClear⟩
  case stageFromRamp l r => exact ⟨_, rfl, h.frameTame fun t => tame_stageFromRamp t r⟩
  case storeSlot l x => exact ⟨_, rfl, h.frameTame fun t => tame_storeCommand t x⟩
  case fetchSlot l x => exact ⟨_, rfl, h.frameTame fun t => tame_fetch t x⟩
  case eraseSlot l x => exact ⟨_, rfl, h.frameTame fun t => tame_eraseCommand t x⟩
  case protectSlot l x => exact ⟨_, rfl, h.frameTame fun t => tame_protect t x⟩
  case unprotectSlot l x => exact ⟨_, rfl, h.frameTame fun t => tame_unprotect t l x⟩
  case noticeClear l k x =>
    refine ⟨_, rfl, h.frameTame fun t => ?_⟩
    split
    · exact tame_clearAllNotices t l
    · exact tame_clearNotice t l k x
  case noticeClearAll l x => exact ⟨_, rfl, h.frameTame fun t => tame_clearAllNotices t l⟩
  case noticeMask l ks => exact ⟨_, rfl, h.frameTame fun t => tame_maskNotices t l ks⟩
  case restart l x =>
    refine ⟨_, rfl, h.frameTame fun t => ?_⟩
    cases l <;> exact tame_of_records rfl rfl rfl rfl
  case noticeQuery | unknownCommand => exact ⟨_, rfl, h.frameTame Tame.refl⟩
  all_goals exact ⟨_, rfl, h⟩

theorem State.Lawful.execCommand (h : s.Lawful) {i : Instr} (e : Machine.exec i s = Machine.runCommand i s) :
    ∃ t, Machine.exec i s = .next t ∧ t.Lawful := by
  rw [e]
  exact h.runCommand i

theorem State.Lawful.failCheck (h : s.Lawful) (l : Link) (code : Byte) : (s.failCheck l code).Lawful := by
  unfold State.failCheck
  split
  · exact h.tame (s.overrunFrame_onlyLinks l).tame
  · exact (h.tame (s.setLink_onlyLinks l _).tame).tame (State.respond_onlyLinks _ l code _).tame

theorem State.Lawful.byteReceived (h : s.Lawful) (l : Link) (b : Byte) :
    ∃ t, execByteReceived l b s = .next t ∧ t.Lawful := by
  unfold execByteReceived
  rw [if_neg (by simp [h.up])]
  split
  · exact ⟨_, rfl, h.tame (s.setLink_onlyLinks l _).tame⟩
  · unfold completeFrame
    split
    · exact ⟨_, rfl, h.tame (s.overrunFrame_onlyLinks l).tame⟩
    · split
      · unfold takePayload
        split
        · exact h.runCommand _
        · exact ⟨_, rfl, h.frameTame Tame.refl⟩
        · exact ⟨_, rfl, h.frameTame Tame.refl⟩
      · exact ⟨_, rfl, h.failCheck l _⟩

/-! ### PERMIT and the resets (R1, R37, R38, R60, R146) -/

theorem State.GreensWarranted.permitStops (h : s.GreensWarranted) (n : RampNo) : (s.permitStops n).GreensWarranted := by
  have hd := (s.permitStops_stopped n).dark
  cases hr : (s.ramp n).running with
  | false => rwa [State.permitStops_still hr]
  | true => exact h.of_refsOnly (s.permitStops_refsOnly n) fun k x => by simp [hd hr k] at x

theorem State.allStopped_resetHeld (s : State) : s.allStopped.resetHeld = s.resetHeld := by
  unfold State.allStopped
  exact State.eachRamp_induct (P := fun t => t.resetHeld = s.resetHeld)
    (fun n t h => (State.permitStops_refsOnly t n).1.resetHeld.trans h) rfl

theorem State.GreensWarranted.allStopped (h : s.GreensWarranted) : s.allStopped.GreensWarranted := by
  unfold State.allStopped
  exact State.eachRamp_induct (P := State.GreensWarranted) (fun n t ht => ht.permitStops n) h

/-- The loss of PERMIT leaves no ramp running, so none asks for it. -/
theorem State.Lawful.losePermit (h : s.Lawful) : s.losePermit.Lawful := by
  have hr : Tame s.allStopped s.losePermit := tame_raise s.allStopped .permit 0 .none true
  refine ⟨hr.resetHeld.trans (s.allStopped_resetHeld.trans h.up), h.greens.allStopped.tame hr, fun n hn => ?_⟩
  simp [(s.losePermit_stopped n).stopped] at hn

theorem State.Lawful.permitReturned (h : s.Lawful) : ({ s with permit := true } : State).Lawful :=
  ⟨h.up, h.greens, fun _ _ => rfl⟩

theorem State.head_resetRecords (s : State) (h : HeadNo) : (s.resetRecords.head h).aspect = .dark := by
  simp [State.resetRecords, State.head, Head.reset, Head.aspect, Head.resetContext, CycleState.aspect]

theorem State.ramp_resetRecords (s : State) (n : RampNo) : s.resetRecords.ramp n = Ramp.vacantRecord := by
  simp [State.resetRecords, State.ramp]

theorem State.Lawful.resetRecords (h : s.Lawful) : s.resetRecords.Lawful :=
  ⟨h.up, fun g x => by simp [State.head_resetRecords] at x,
    fun n x => by simp [State.ramp_resetRecords, Ramp.running, Ramp.vacantRecord] at x⟩

theorem tame_readInputs (s : State) : Tame s s.readInputs :=
  ⟨rfl, rfl, fun _ => rfl, fun h x => by rw [State.head_readInputs] at x; exact x⟩

theorem tame_permitNotice (s : State) : Tame s s.permitNotice := s.permitNotice_onlyLinks.tame

theorem tame_beginScan (s : State) : Tame s s.beginScan := tame_of_records rfl rfl rfl rfl

theorem tame_scanAfterRestart (s : State) : Tame s s.scanAfterRestart := by
  unfold State.scanAfterRestart
  split
  · exact tame_beginScan s
  · exact tame_of_records rfl rfl rfl rfl

theorem State.Lawful.restart (h : s.Lawful) : s.restart.Lawful := by
  unfold State.restart
  refine State.Lawful.tame ?_ (((tame_readInputs _).trans (tame_scanAfterRestart _)).trans (tame_permitNotice _))
  exact h.resetRecords.tame (tame_of_records rfl rfl rfl rfl)

theorem State.Lawful.responseSent (h : s.Lawful) (l : Link) : (s.responseSent l).Lawful := by
  unfold State.responseSent
  split
  · exact h
  · split
    · exact h.restart
    · exact h.tame (s.setLink_onlyLinks l _).tame

/-- A hard reset leaves every ramp VACANT with its heads DARK, and window 0 at its start. -/
theorem State.hardReset_guarded (s : State) : s.hardReset.Guarded where
  green g hg := by
    have hd : (s.hardReset.head g).aspect = .dark := s.head_resetRecords g
    simp [hd] at hg
  permit n hn := by
    have hv : s.hardReset.ramp n = Ramp.vacantRecord := s.ramp_resetRecords n
    simp [hv, Ramp.running, Ramp.vacantRecord] at hn
  held _ n := congrArg Ramp.state (s.ramp_resetRecords n)
  window _ := ⟨rfl, rfl⟩

theorem State.Guarded.release (h : s.Guarded) : s.release.Lawful := by
  have hu : ({ s with resetHeld := false, count := 0 } : State).Lawful := ⟨rfl, h.green, h.permit⟩
  exact hu.tame (((tame_readInputs _).trans (tame_beginScan _)).trans (tame_permitNotice _))

/-! ### Every row -/

theorem State.Lawful.running (h : s.Lawful) {f : State → State} (hf : (f s).Lawful) : (s.running f).Lawful := by
  rwa [State.running_up h.up]

/-- Every row but HARD RESET keeps the law while RESET is not held. -/
theorem State.Lawful.exec (h : s.Lawful) {i : Instr} (ne : i ≠ .hardReset) : ∃ t, exec i s = .next t ∧ t.Lawful := by
  cases i
  case hardReset => exact absurd rfl ne
  case byteReceived l b => exact h.byteReceived l b
  case resetRelease => exact ⟨s, congrArg Host.Outcome.next (if_neg (by simp [h.up])), h⟩
  case takeoverAssert | takeoverWithdraw => exact ⟨_, rfl, h.tame (tame_of_records rfl rfl rfl rfl)⟩
  case permitLoss =>
    refine ⟨_, congrArg Host.Outcome.next (if_neg (by simp [h.up])), ?_⟩
    split
    · exact h.losePermit
    · exact h
  case permitReturn =>
    refine ⟨_, congrArg Host.Outcome.next (if_neg (by simp [h.up])), ?_⟩
    split
    · exact h
    · exact h.permitReturned.tame (State.liveClear_onlyLinks _ _ _).tame
  case presenceOnset c => exact ⟨_, rfl, h.presenceOnset c⟩
  case presenceEnd c => exact ⟨_, rfl, h.presenceEnd c⟩
  case presenceQualified c => exact ⟨_, rfl, h.running (h.tryQualify c)⟩
  case stuckOn c => exact ⟨_, rfl, h.running (h.tame (tame_tryStuck s c))⟩
  case provingInputChange g red green => exact ⟨_, rfl, h.tame (tame_provingInputs s g red green)⟩
  case provingFaultDeclared g => exact ⟨_, rfl, h.running (h.tryDeclare g)⟩
  case flushHoldReached n => exact ⟨_, rfl, h.running (h.tryFlushExit n)⟩
  case settleComplete n => exact ⟨_, rfl, h.running (h.trySettle n)⟩
  case emptyJudgement n => exact ⟨_, rfl, h.running ((h.tame (tame_reportEmpty s n)).takeEmpty n)⟩
  case supervisionLapse l => exact ⟨_, rfl, h.running (h.tame (tame_tryLapse s l))⟩
  case responseSent l => exact ⟨_, rfl, h.running (h.responseSent l)⟩
  case frameCheckFailure l code => exact ⟨_, rfl, h.running (h.failCheck l code)⟩
  case frameOverrun l =>
    refine ⟨_, rfl, h.running ?_⟩
    split
    · exact h.tame (s.overrunFrame_onlyLinks l).tame
    · exact h
  case receiveGapTimeout l =>
    refine ⟨_, rfl, h.running ?_⟩
    split
    · exact h.tame (s.setLink_onlyLinks l _).tame
    · exact h
  case windowTimerExpiry =>
    refine ⟨_, rfl, h.running ?_⟩
    split
    · exact h.closeWindow _
    · exact h
  case syncEdge =>
    refine ⟨_, rfl, h.running ?_⟩
    split
    · exact h.closeWindow _
    · exact h
  case windowSelfClose =>
    refine ⟨_, rfl, h.running ?_⟩
    split
    · exact (h.closeWindow _).tame (tame_raise _ _ _ _ _)
    · exact h
  case bulletinArrival =>
    refine ⟨_, rfl, h.running ?_⟩
    split
    · exact h
    · exact State.eachRamp_induct (P := State.Lawful) (fun n _ ht => ht.bulletinAt n _ _)
        (h.tame (tame_of_records rfl rfl rfl rfl))
  case warnTimerExpiry n =>
    refine ⟨_, rfl, h.running ?_⟩
    split
    · unfold State.endWarn
      split
      · exact h
      · exact h.tame (tame_enterStartRed s n _)
    · exact h
  case startRedExpiry n =>
    refine ⟨_, rfl, h.running ?_⟩
    split
    · next hd =>
      obtain ⟨_, -, hst, -⟩ := (s.ramp n).startRedDue_iff.1 hd
      unfold State.endStartRed
      split
      · exact h
      · exact h.enterMetering _ (by simp [Ramp.running, hst])
    · exact h
  case queueAlarm n =>
    refine ⟨_, rfl, h.running ?_⟩
    split
    · unfold State.takeDwell
      split
      · exact h
      · split
        · next hst =>
          split
          · exact h.tame (tame_modRamp s n rfl)
          · exact h.takeAlarm _ (Ramp.showsGreen.running (.inl hst))
        · exact h.tame (tame_modRamp s n rfl)
    · exact h
  case laneReady n k =>
    refine ⟨_, rfl, h.running ?_⟩
    split
    · exact h.laneBecomesReady n k
    · exact h
  case spacingExpiry n k =>
    refine ⟨_, rfl, h.running ?_⟩
    split
    · exact h.tryRelease n
    · exact h
  case greenEnd n k =>
    refine ⟨_, rfl, h.running ?_⟩
    split
    · exact h.tame (tame_endGreens s n k)
    · exact h
  case closeGreenEnd n =>
    refine ⟨_, rfl, h.running ?_⟩
    split
    · exact h.endClosing n
    · exact h
  case overrideExpiry n =>
    refine ⟨_, rfl, h.running ?_⟩
    split
    · exact h.tame (tame_modRamp s n rfl)
    · exact h
  case restoreScanSlot =>
    refine ⟨_, rfl, h.running ?_⟩
    split
    · exact h.scanStep _
    · exact h
    · exact h
  case storeCompletion good =>
    refine ⟨_, rfl, h.running ?_⟩
    split
    · exact h.tame (tame_completeStore s _ good)
    · exact h
  all_goals exact h.execCommand rfl

/-- While RESET is held the rows but RESET RELEASE move the lines and inputs alone, and every ramp is VACANT. -/
theorem State.Guarded.of_linesOnly {t : State} (h : s.Guarded) (held : s.resetHeld = true) (e : LinesOnly s t) :
    t.Guarded := by
  have hr : ∀ n, t.ramp n = s.ramp n := fun n => by rw [State.ramp, e.rest]; rfl
  have hv := h.held held
  have hw := h.window held
  refine ⟨fun g hg => ?_, fun n hn => ?_, fun _ n => ?_, fun _ => ?_⟩
  · rw [e.heads] at hg
    rw [hr]
    exact h.green g hg
  · rw [hr] at hn
    simp [Ramp.running, hv n] at hn
  · rw [hr]
    exact hv n
  · rw [e.rest]
    exact hw

theorem State.Guarded.exec (h : s.Guarded) (i : Instr) : ∃ t, exec i s = .next t ∧ t.Guarded := by
  cases held : s.resetHeld with
  | true =>
    by_cases e : i = .resetRelease
    · subst e
      exact ⟨_, exec_resetRelease_held held, h.release.guarded⟩
    · obtain ⟨t, ht, hl⟩ := exec_held held e
      exact ⟨t, ht, h.of_linesOnly held hl⟩
  | false =>
    by_cases e : i = .hardReset
    · subst e
      exact ⟨_, congrArg Host.Outcome.next (if_neg (by simp [held])), s.hardReset_guarded⟩
    · obtain ⟨t, ht, hl⟩ := (h.lawful held).exec e
      exact ⟨t, ht, hl.guarded⟩

theorem Ramp.state_ticks (r : Ramp) (ds sec : Prop) [Decidable ds] [Decidable sec] :
    (atTick sec Ramp.tickSecond (atTick ds Ramp.tickDs r.tickCs)).state = r.state := by
  rw [Ramp.ticks_eq, Ramp.tickCs_eq]

theorem tame_tick (s : State) : Tame s s.tick where
  resetHeld := by rw [s.tick_form]
  permit := by rw [s.tick_form]
  states n := by rw [s.ramp_tick, Ramp.state_ticks]
  heads h x := by rw [s.head_tick, Head.ticks_eq, Head.counted_eq] at x; exact x

theorem State.Guarded.of_fields {t : State} (h : s.Guarded) (pending : List Instr) (tieCount : Nat)
    (e : t = { s with pending := pending, tieCount := tieCount }) : t.Guarded := by
  subst e
  exact ⟨h.green, h.permit, h.held, h.window⟩

theorem State.Guarded.idle (h : s.Guarded) : ∃ t, idle s = .next t ∧ t.Guarded := by
  unfold Machine.idle
  split
  · exact ⟨s, rfl, h⟩
  · next held =>
    split
    · exact ⟨_, rfl, ((h.lawful (by simpa using held)).tame (tame_tick s)).guarded⟩
    · exact h.exec _
    · exact (h.of_fields s.pending (s.tieCount + 1) rfl).exec _

theorem State.Guarded.step (h : s.Guarded) : ∃ t, step s = .next t ∧ t.Guarded := by
  unfold Machine.step
  split
  · exact (h.of_fields _ s.tieCount rfl).exec _
  · exact h.idle

end

/-- Settles O8: every row and the centisecond keep what holds the law together, and from it the law follows. -/
theorem greenLawKept : Obligations.GreenLawKept := by
  intro s t h hstep
  obtain ⟨u, hu, hg⟩ := h.step
  obtain rfl : u = t := by
    rw [hu] at hstep
    exact Host.Outcome.next.inj hstep
  exact ⟨hg, hg.greenLaw⟩

end Sys2Proof.Machine
end

section
/-! PROOFS. The ends of a green (R115), of SETTLE and of the steady green (R30, R31, R117). -/

namespace Sys2Proof.Machine

/-! ### GREEN END (R114, R115) -/

section
variable {s : State} {n : RampNo} {p : Plan} {k : LaneNo}

theorem exec_greenEnd (hr : s.resetHeld = false) (hd : s.greenEndDue n k = true) :
    exec (.greenEnd n k) s = .next (s.endGreens n k) := by
  change Host.Outcome.next (s.running fun t => if t.greenEndDue n k then t.endGreens n k else t) = _
  rw [State.running_up hr, if_pos hd]

theorem State.endGreens_some (hp : (s.ramp n).plan = some p) :
    s.endGreens n k = s.eachLane (p.lanesWith k) fun j t => t.finishGreen n p j := by
  simp [State.endGreens, hp]

theorem State.ramps_endGreens (s : State) (n : RampNo) (k : LaneNo) : (s.endGreens n k).ramps = s.ramps := by
  unfold State.endGreens
  split
  · rfl
  · exact State.eachLane_induct (P := fun t => t.ramps = s.ramps) (fun j t e => by simp [e]) _ rfl

/-- A lane event concerns its lane, and in TOGETHER order the whole group (R114). -/
theorem Plan.mem_lanesWith (hk : k ∈ p.laneList) {j : LaneNo} :
    j ∈ p.lanesWith k ↔ j = k ∨ p.layout.order = .together ∧ j ∈ p.laneList := by
  unfold Plan.lanesWith
  cases p.layout.order with
  | staggered => simp
  | together =>
    simp only [true_and]
    exact ⟨.inr, fun h => h.elim (fun e => e ▸ hk) id⟩

/-- A green that has run is back in HOLD under RED; any other head is as it was (R115). -/
theorem Head.finished_eq (h : Head) (green : Nat) : h.finished green =
    if h.cycle = .green ∧ green ≤ h.sinceStart then h.reprove { h with cycle := .hold, sinceEnd := 0 } else h := by
  simp [Head.finished, Head.greenRun]

theorem State.head_endGreens (hp : (s.ramp n).plan = some p) (hk : k ∈ p.laneList) (j : LaneNo) :
    (s.endGreens n k).head (headOf n j) =
      if (j = k ∨ p.layout.order = .together ∧ j ∈ p.laneList) ∧ (s.head (headOf n j)).cycle = .green ∧
          p.timing.green ≤ (s.head (headOf n j)).sinceStart then
        (s.head (headOf n j)).reprove { s.head (headOf n j) with cycle := .hold, sinceEnd := 0 }
      else s.head (headOf n j) := by
  have h := (State.eachLane_heads' (f := fun j t => t.finishGreen n p j) (φ := fun _ h => h.finished p.timing.green)
    (fun j t => t.head_finishGreen n p j) (fun j t _ e => t.head_finishGreen_other n p j e) (p.lanesWith_nodup k) s).1 j
  rw [State.endGreens_some hp, h, Head.finished_eq]
  simp only [Plan.mem_lanesWith hk]
  by_cases hmem : j = k ∨ p.layout.order = .together ∧ j ∈ p.laneList
  · simp only [hmem, true_and, if_true]
  · simp only [hmem, false_and, if_false]

end

/-- Settles O29: the green that has run is due, and the lanes it concerns are finished each on its own head. -/
theorem greenEnds : Obligations.GreenEnds := by
  intro s n p k hr hp hk hc hg
  have hm := State.endGreens_rampOnly s n k
  have hh := State.head_endGreens hp hk
  refine ⟨_, exec_greenEnd hr ((s.greenEndDue_iff n k).2 ⟨p, hp, hk, hc, hg⟩), hh, ?_, s.ramps_endGreens n k, hm.1, hm.2⟩
  rw [hh k, if_pos ⟨.inl rfl, hc, hg⟩]
  simp [Head.aspect, CycleState.aspect]

/-! ### SETTLE COMPLETE (R30, R116, R117) -/

section
variable {s : State} {n : RampNo} {p : Plan}

theorem exec_settleComplete (hr : s.resetHeld = false) : exec (.settleComplete n) s = .next (s.trySettle n) := by
  change Host.Outcome.next (s.running fun t => t.trySettle n) = _
  rw [State.running_up hr]

theorem State.trySettle_due (hp : (s.ramp n).plan = some p) (hd : s.settledDue n = true) :
    s.trySettle n = s.endSettle n p := by
  simp [State.trySettle, hp, hd]

theorem State.endSettle_zero (h : p.timing.closeGreen = 0) : s.endSettle n p = s.endClosing n := by
  simp [State.endSettle, h]

/-- The steady green begins: the GREEN sub-phase with its timer at 0 (R117). -/
theorem State.ramp_endSettle_green (h : 0 < p.timing.closeGreen) :
    (s.endSettle n p).ramp n = { s.ramp n with sub := some .green, closeTimer := 0 } := by
  rw [State.endSettle, if_neg (Nat.ne_of_gt h)]
  exact State.eachLane_induct (P := fun t => t.ramp n = { s.ramp n with sub := some .green, closeTimer := 0 })
    (fun k t e => by simpa using e) _ (by simp)

theorem State.head_endSettle_green (h : 0 < p.timing.closeGreen) {k : LaneNo} (hk : k ∈ p.laneList) :
    (s.endSettle n p).head (headOf n k) = (s.head (headOf n k)).reprove (s.head (headOf n k)).resting := by
  rw [State.endSettle, if_neg (Nat.ne_of_gt h),
    State.head_eachLane_write (φ := fun _ h => h.resting) p.laneList_nodup, if_pos hk]
  simp

theorem State.endSettle_green_rampOnly (h : 0 < p.timing.closeGreen) : RampOnly n s (s.endSettle n p) := by
  rw [State.endSettle, if_neg (Nat.ne_of_gt h)]
  exact (State.modRamp_rampOnly s n _).trans
    (State.eachLane_rampOnly (fun k t => State.writeHead_lane_rampOnly t n k _) _ _)

end

/-- Settles O30: the settled report ends SETTLE in the steady green, or CLOSING itself when there is none. -/
theorem settleCompletes : Obligations.SettleCompletes := by
  intro s n p hr hp hs hsub hall
  have hd : s.settledDue n = true :=
    (s.settledDue_iff n).2 ⟨p, hp, hs, hsub, fun k hk => (Head.settled_iff _ _).1 (hall k hk)⟩
  have hexec := exec_settleComplete (n := n) hr
  rw [State.trySettle_due hp hd] at hexec
  refine ⟨fun hc => ⟨_, hexec, ?_⟩, fun hc => ⟨_, hexec, ?_⟩⟩
  · have hm := State.endSettle_green_rampOnly (s := s) (n := n) hc
    have hramp := State.ramp_endSettle_green (s := s) (n := n) hc
    refine ⟨hramp, fun k hk => ?_, ?_, hm.1, hm.2⟩
    · rw [State.head_endSettle_green hc hk]
      simp [Head.resting, Head.aspect, CycleState.aspect]
    · rw [State.beacon_up (hm.1.toRestSame.resetHeld.trans hr), hramp]
      simp [Ramp.beaconLit, hs]
  · rw [State.endSettle_zero hc]
    exact ⟨State.endClosing_over s n, (State.endClosing_refsOnly s n).2⟩

/-! ### CLOSE GREEN END (R31, R117) -/

section
variable {s : State} {n : RampNo}

theorem exec_closeGreenEnd (hr : s.resetHeld = false) (hd : (s.ramp n).closeGreenDue = true) :
    exec (.closeGreenEnd n) s = .next (s.endClosing n) := by
  change Host.Outcome.next (s.running fun t => if (t.ramp n).closeGreenDue then t.endClosing n else t) = _
  rw [State.running_up hr, if_pos hd]

/-- The end of CLOSING leaves a head's timers as `darken` sets them, on the way to PARKED and to VACANT. -/
theorem State.sinceEnd_endClosing (s : State) (n : RampNo) (k : LaneNo) :
    ((s.endClosing n).head (headOf n k)).sinceEnd = ((s.darken n).head (headOf n k)).sinceEnd := by
  unfold State.endClosing
  split
  · have hv : (s.vacate n .closingEnded).head (headOf n k) = ((s.darken n).clearDemands n).head (headOf n k) := by
      simp [State.vacate, State.head]
    rw [hv, State.head_clearDemands]
    rfl
  · simp [State.park]

end

/-- Settles O31: the steady green that has run ends CLOSING, and a green that goes DARK starts its time since the end. -/
theorem closeGreenEnds : Obligations.CloseGreenEnds := by
  intro s n p hr hp hs hsub hc
  have hd : (s.ramp n).closeGreenDue = true := (s.ramp n).closeGreenDue_iff.2 ⟨p, hp, hs, hsub, hc⟩
  refine ⟨_, exec_closeGreenEnd hr hd, State.endClosing_over s n, fun k hk => ?_, (State.endClosing_refsOnly s n).2⟩
  rw [State.sinceEnd_endClosing, State.head_darken, Head.reprove_sinceEnd]
  simp [Head.darkened, hk]

end Sys2Proof.Machine
end

section
/-! PROOFS. What the conditions of a release are (R112 to R114), and the release that a lane event brings. -/

namespace Sys2Proof.Machine

/-! ### The conditions of a release (R112 to R114) -/

theorem Head.called_iff (h : Head) : h.called = true ↔ (h.demandHealth = some .good → h.demandOn = true) := by
  by_cases hg : h.demandHealth = some .good <;> simp [Head.called, Head.demandGood, hg]

theorem State.spaced_iff (s : State) (n : RampNo) (p : Plan) (k : LaneNo) : s.spaced n p k = true ↔
    ∀ j ∈ p.laneList, j ≠ k → (s.ramp n).interval k / p.layout.lanes ≤ (s.head (headOf n j)).sinceStart := by
  simp only [State.spaced, List.all_eq_true, Bool.or_eq_true, decide_eq_true_eq, ne_eq, Classical.or_iff_not_imp_left]

theorem State.releasable_iff (s : State) (n : RampNo) (p : Plan) (k : LaneNo) : s.releasable n p k = true ↔
    (s.head (headOf n k)).cycle = .ready ∧ (s.head (headOf n k)).called = true ∧ s.spaced n p k = true := by
  simp [State.releasable, and_assoc]

theorem State.groupCalled_iff (s : State) (n : RampNo) (p : Plan) : s.groupCalled n p = true ↔
    ((∃ k ∈ p.laneList, (s.head (headOf n k)).demandHealth = some .good) →
      ∃ k ∈ p.laneList, (s.head (headOf n k)).demandHealth = some .good ∧ (s.head (headOf n k)).demandOn = true) := by
  unfold State.groupCalled
  split
  · next h =>
    have hgood : ∃ k ∈ p.laneList, (s.head (headOf n k)).demandHealth = some .good := by
      simpa [Head.demandGood] using h
    rw [forall_prop_of_true hgood]
    simp [Head.demandGood]
  · next h =>
    have hnone : ¬ ∃ k ∈ p.laneList, (s.head (headOf n k)).demandHealth = some .good := by
      simpa [Head.demandGood] using h
    simp only [true_iff]
    exact fun hgood => absurd hgood hnone

theorem State.groupReady_iff (s : State) (n : RampNo) (p : Plan) : s.groupReady n p = true ↔
    ∀ k ∈ p.laneList, (s.head (headOf n k)).cycle = .ready := by
  simp [State.groupReady]

/-- The lanes of a plan stand in the order of their numbers. -/
theorem Plan.laneList_ascending (p : Plan) : p.laneList.Pairwise (· < ·) := by
  unfold Plan.laneList lanesTo
  exact (List.pairwise_lt_finRange 3).filter _

/-- In an ascending list the first element of a kind is the least. -/
theorem find?_eq_some_iff_least {m : Nat} {l : List (Fin m)} (asc : l.Pairwise (· < ·)) (q : Fin m → Bool) (k : Fin m) :
    l.find? q = some k ↔ k ∈ l ∧ q k = true ∧ ∀ j ∈ l, j < k → q j = false := by
  induction l with
  | nil => simp
  | cons a rest ih =>
    obtain ⟨ha, asc⟩ := List.pairwise_cons.1 asc
    cases hq : q a with
    | true =>
      rw [List.find?_cons_of_pos hq, Option.some.injEq]
      constructor
      · rintro rfl
        refine ⟨List.mem_cons_self, hq, fun j hj hlt => ?_⟩
        rcases List.mem_cons.1 hj with rfl | hj
        · exact absurd hlt (Nat.lt_irrefl _)
        · exact absurd hlt (Nat.lt_asymm (ha j hj))
      · rintro ⟨hk, -, hleast⟩
        rcases List.mem_cons.1 hk with rfl | hk
        · rfl
        · have := hleast a List.mem_cons_self (ha k hk)
          rw [hq] at this
          cases this
    | false =>
      rw [List.find?_cons_of_neg (by simp [hq]), ih asc]
      constructor
      · rintro ⟨hk, hqk, hleast⟩
        refine ⟨List.mem_cons_of_mem _ hk, hqk, fun j hj hlt => ?_⟩
        rcases List.mem_cons.1 hj with rfl | hj
        · exact hq
        · exact hleast j hj hlt
      · rintro ⟨hk, hqk, hleast⟩
        refine ⟨(List.mem_cons.1 hk).resolve_left ?_, hqk, fun j hj => hleast j (List.mem_cons_of_mem _ hj)⟩
        rintro rfl
        rw [hq] at hqk
        cases hqk

section
variable {s : State} {n : RampNo} {p : Plan}

/-- STAGGERED order releases the lowest-numbered lane that meets the conditions (R113). -/
theorem State.lanesToRelease_lowest (ho : p.layout.order = .staggered) (k : LaneNo) : s.lanesToRelease n p = [k] ↔
    k ∈ p.laneList ∧ s.releasable n p k = true ∧ ∀ j ∈ p.laneList, j < k → s.releasable n p j = false := by
  rw [← find?_eq_some_iff_least p.laneList_ascending, State.lanesToRelease, ho]
  cases p.laneList.find? (s.releasable n p) <;> simp

theorem State.lanesToRelease_none (ho : p.layout.order = .staggered) : s.lanesToRelease n p = [] ↔
    ∀ k ∈ p.laneList, s.releasable n p k = false := by
  rw [State.lanesToRelease, ho]
  simp

/-- TOGETHER order releases the whole group or no lane (R114). -/
theorem State.lanesToRelease_group (ho : p.layout.order = .together) : s.lanesToRelease n p =
    if (∀ k ∈ p.laneList, (s.head (headOf n k)).cycle = .ready) ∧ s.groupCalled n p = true then p.laneList else [] := by
  rw [State.lanesToRelease, ho]
  simp only [Bool.and_eq_true, State.groupReady_iff]

end

/-! ### Lanes become READY (R111) -/

theorem nodup_lane (k : LaneNo) : [k].Nodup := List.nodup_cons.2 ⟨List.not_mem_nil, List.nodup_nil⟩

/-- These lanes have become READY; the ramp's record and its other lanes are as they were (R111). -/
structure LanesReadied (s u : State) (n : RampNo) (lanes : List LaneNo) : Prop where
  ramp : u.ramp n = s.ramp n
  ready : ∀ j ∈ lanes, u.head (headOf n j) =
    (s.head (headOf n j)).reprove { s.head (headOf n j) with cycle := .ready }
  others : ∀ j, j ∉ lanes → u.head (headOf n j) = s.head (headOf n j)

section
variable {s u : State} {n : RampNo} {p : Plan} {lanes : List LaneNo}

/-- A lane in HOLD whose interval and minimum red have passed. -/
def Head.Waited (h : Head) (interval minRed : Nat) : Prop :=
  h.cycle = .hold ∧ interval ≤ h.sinceStart ∧ minRed ≤ h.sinceEnd

theorem Head.Waited.judged {h : Head} {interval minRed : Nat} (w : h.Waited interval minRed) :
    h.judged interval minRed = h.reprove { h with cycle := .ready } := by
  obtain ⟨hc, hi, hm⟩ := w
  exact (h.judged_compared interval minRed).readies hc hi hm

/-- The comparison of waiting lanes makes them READY. -/
theorem State.judgeLanes_readied (nd : lanes.Nodup)
    (hw : ∀ j ∈ lanes, (s.head (headOf n j)).Waited ((s.ramp n).interval j) p.timing.minRed) :
    LanesReadied s (s.judgeLanes n p lanes) n lanes where
  ramp := by
    have hhold : ∀ k ∈ lanes,
        ¬ ((s.head (headOf n k)).cycle = .ready ∧ (s.head (headOf n k)).sinceStart < (s.ramp n).interval k) := by
      rintro k hk ⟨hc, -⟩
      rw [(hw k hk).1] at hc
      cases hc
    rw [State.ramp_judgeLanes n p nd, decide_eq_true hhold, Bool.and_true]
  ready := fun j hj => by rw [State.head_judgeLanes n p nd, if_pos hj, (hw j hj).judged]
  others := fun j hj => by rw [State.head_judgeLanes n p nd, if_neg hj]

/-- One waiting lane: its head alone is written. -/
theorem State.judgeLane_waited {k : LaneNo} (w : (s.head (headOf n k)).Waited ((s.ramp n).interval k) p.timing.minRed) :
    s.judgeLanes n p [k] = s.setCycle (headOf n k) .ready := by
  obtain ⟨hc, hi, hm⟩ := w
  simp [State.judgeLanes, State.judgeLane, hc, Head.ripe, hi, hm]

theorem State.judgeLanes_rampOnly (s : State) (n : RampNo) (p : Plan) (lanes : List LaneNo) :
    RampOnly n s (s.judgeLanes n p lanes) :=
  State.eachLane_rampOnly (fun k t => State.judgeLane_rampOnly t n p k) _ _

namespace LanesReadied

theorem cycle_ready (h : LanesReadied s u n lanes) {j : LaneNo} (hj : j ∈ lanes) :
    (u.head (headOf n j)).cycle = .ready := by
  rw [h.ready j hj, Head.reprove_cycle]

/-- READY moves none of the fields that the conditions of a release read beside the cycle. -/
theorem kept (h : LanesReadied s u n lanes) (j : LaneNo) :
    (u.head (headOf n j)).sinceStart = (s.head (headOf n j)).sinceStart ∧
      (u.head (headOf n j)).demandHealth = (s.head (headOf n j)).demandHealth ∧
      (u.head (headOf n j)).demandOn = (s.head (headOf n j)).demandOn := by
  by_cases hj : j ∈ lanes
  · simp [h.ready j hj]
  · simp [h.others j hj]

theorem called (h : LanesReadied s u n lanes) (j : LaneNo) :
    (u.head (headOf n j)).called = (s.head (headOf n j)).called := by
  obtain ⟨-, hhealth, hon⟩ := h.kept j
  simp [Head.called, Head.demandGood, hhealth, hon]

theorem spaced (h : LanesReadied s u n lanes) (p : Plan) (k : LaneNo) : u.spaced n p k = s.spaced n p k := by
  unfold State.spaced
  simp only [h.ramp, fun j => (h.kept j).1]

theorem groupCalled (h : LanesReadied s u n lanes) (p : Plan) : u.groupCalled n p = s.groupCalled n p := by
  unfold State.groupCalled Head.demandGood
  simp only [fun j => (h.kept j).2.1, fun j => (h.kept j).2.2]

theorem releasable_other (h : LanesReadied s u n lanes) (p : Plan) {j : LaneNo} (hj : j ∉ lanes) :
    u.releasable n p j = s.releasable n p j := by
  unfold State.releasable
  rw [h.others j hj, h.spaced]

theorem releasable_readied (h : LanesReadied s u n lanes) (p : Plan) {j : LaneNo} (hj : j ∈ lanes) :
    u.releasable n p j = ((s.head (headOf n j)).called && s.spaced n p j) := by
  unfold State.releasable
  rw [h.cycle_ready hj, h.called, h.spaced, decide_eq_true rfl, Bool.true_and]

end LanesReadied

/-! ### The event of a lane (R111 to R114) -/

/-- What a release says of the state before it rests on the ramp's record alone. -/
theorem GreenStarted.of_ramp {t : State} (h : GreenStarted u t n p lanes) (e : u.ramp n = s.ramp n) :
    GreenStarted s t n p lanes := by
  obtain ⟨hgreen, hstays, hexits⟩ := h
  rw [e] at hstays hexits
  exact ⟨hgreen, hstays, hexits⟩

theorem EmptyReported.of_ramp {t : State} (h : EmptyReported u t n p) (e : u.ramp n = s.ramp n) :
    EmptyReported s t n p := by
  obtain ⟨hreported, hquiet⟩ := h
  rw [e] at hreported hquiet
  exact ⟨hreported, hquiet⟩

/-- An event of ramp `n` that keeps the heads of its lanes but `k` keeps every head but that lane's. -/
theorem OnlyRamp.heads_but {t : State} {k : LaneNo} (h : OnlyRamp n s t)
    (hl : ∀ j, j ≠ k → t.head (headOf n j) = s.head (headOf n j)) (g : HeadNo) (hg : g ≠ headOf n k) :
    t.head g = s.head g := by
  by_cases e : headRamp g = n
  · subst e
    rw [← headOf_parts g] at hg ⊢
    exact hl _ fun x => hg (by rw [x, headRamp_headOf])
  · exact h.heads g e

end

section
variable {s u : State} {n : RampNo} {p : Plan} {lanes : List LaneNo}

/-- A release with its report, where the conditions release these lanes: their green starts and no judgement. -/
theorem State.release_of_lanes (hp : (u.ramp n).plan = some p) (hc : (u.ramp n).cycling = true)
    (hl : u.lanesToRelease n p = lanes) (hne : lanes ≠ []) :
    (u.tryRelease n).reportEmpty n = u.greenStarts n lanes := by
  obtain ⟨hnil, -⟩ | ⟨-, he, -⟩ := State.release_cases hp hc
  · exact absurd (hl.symm.trans hnil) hne
  · rw [he, hl]

/-- Where they release none, the judgement as the lanes stand. -/
theorem State.release_of_none (hp : (u.ramp n).plan = some p)
    (hl : (u.ramp n).cycling = true → u.lanesToRelease n p = []) :
    (u.tryRelease n).reportEmpty n = u.reportEmpty n := by
  cases hc : (u.ramp n).cycling with
  | false => rw [State.tryRelease_idle hc]
  | true => rw [State.tryRelease_of_nil hp (hl hc)]

/-- Off METERING and FLUSHING no judgement is reported (R104). -/
theorem State.reportEmpty_idle (hp : (u.ramp n).plan = some p) (hc : (u.ramp n).cycling = false) :
    u.reportEmpty n = u := by
  refine State.reportEmpty_none (Bool.eq_false_iff.2 fun hd => ?_)
  have hcyc := (Ramp.cycling_iff _).2 ((State.emptyDue_iff hp).1 hd).1.1
  rw [hc] at hcyc
  cases hcyc

theorem Ramp.cycling_false_of_settling {r : Ramp} (h : r.settling = true) : r.cycling = false := by
  obtain ⟨hs, -⟩ := (Ramp.settling_iff r).1 h
  simp [Ramp.cycling, hs]

theorem exec_laneReady {k : LaneNo} (hr : s.resetHeld = false) (hp : (s.ramp n).plan = some p) (hk : k ∈ p.laneList)
    (hc : (s.ramp n).cycling = true ∨ (s.ramp n).settling = true)
    (hw : (s.head (headOf n k)).Waited ((s.ramp n).interval k) p.timing.minRed) :
    exec (.laneReady n k) s = .next (((s.judgeLanes n p (p.lanesWith k)).tryRelease n).reportEmpty n) := by
  obtain ⟨hhold, hi, hm⟩ := hw
  have hd : s.laneReadyDue n k = true := by
    simp [State.laneReadyDue, hp, hk, hc, hhold, Head.ripe, hi, hm]
  change Host.Outcome.next (s.running fun t => if t.laneReadyDue n k then t.laneBecomesReady n k else t) = _
  rw [State.running_up hr, if_pos hd]
  simp [State.laneBecomesReady, hp, State.judgeLanes]

theorem exec_spacingExpiry {k : LaneNo} (hr : s.resetHeld = false) (hd : s.spacingDue n k = true) :
    exec (.spacingExpiry n k) s = .next (s.tryRelease n) := by
  change Host.Outcome.next (s.running fun t => if t.spacingDue n k then t.tryRelease n else t) = _
  rw [State.running_up hr, if_pos hd]

/-- One lane's green start writes that lane's head alone. -/
theorem State.greenStarts_heads_but {k : LaneNo} (hs : RampOnly n s u)
    (hu : ∀ j, j ≠ k → u.head (headOf n j) = s.head (headOf n j)) (g : HeadNo) (hg : g ≠ headOf n k) :
    (u.greenStarts n [k]).head g = s.head g := by
  refine (hs.trans (State.greenStarts_rampOnly u n [k])).1.heads_but (fun j hj => ?_) g hg
  rw [State.head_greenStarts u n (nodup_lane k), if_neg (by simpa using hj), hu j hj]

end

/-! ### LANE READY in STAGGERED order -/

section
variable {s : State} {n : RampNo} {p : Plan} {k : LaneNo}

theorem Plan.lanesWith_staggered (ho : p.layout.order = .staggered) : p.lanesWith k = [k] := by
  simp [Plan.lanesWith, ho]

theorem Plan.lanesWith_together (ho : p.layout.order = .together) : p.lanesWith k = p.laneList := by
  simp [Plan.lanesWith, ho]

/-- In SETTLE the lane becomes READY and nothing else happens (R116). -/
theorem State.laneReady_settling (hp : (s.ramp n).plan = some p) (hs : (s.ramp n).settling = true)
    (w : (s.head (headOf n k)).Waited ((s.ramp n).interval k) p.timing.minRed) :
    ((s.judgeLanes n p [k]).tryRelease n).reportEmpty n = s.setCycle (headOf n k) .ready := by
  have hramp : (s.setCycle (headOf n k) .ready).ramp n = s.ramp n := by simp [State.setCycle]
  have hc : ((s.setCycle (headOf n k) .ready).ramp n).cycling = false := by
    rw [hramp]
    exact Ramp.cycling_false_of_settling hs
  rw [State.judgeLane_waited w, State.tryRelease_idle hc, State.reportEmpty_idle (hramp ▸ hp) hc]

theorem State.lane_readied (w : (s.head (headOf n k)).Waited ((s.ramp n).interval k) p.timing.minRed) :
    LanesReadied s (s.judgeLanes n p [k]) n [k] :=
  State.judgeLanes_readied (nodup_lane k) fun _ hj => (List.mem_singleton.1 hj) ▸ w

/-- The lane that becomes READY is released when it is called and spaced, and no lower lane meets the conditions (R113). -/
theorem LanesReadied.releases_lane {u : State} (h : LanesReadied s u n [k]) (ho : p.layout.order = .staggered)
    (hk : k ∈ p.laneList) (hcall : (s.head (headOf n k)).called = true) (hspace : s.spaced n p k = true)
    (hlow : ∀ j ∈ p.laneList, j < k → s.releasable n p j = false) : u.lanesToRelease n p = [k] := by
  refine (State.lanesToRelease_lowest ho k).2 ⟨hk, ?_, fun j hj hlt => ?_⟩
  · rw [h.releasable_readied p (List.mem_singleton_self k), hcall, hspace]
    rfl
  · rw [h.releasable_other p (by simpa using fun e => Nat.lt_irrefl _ (e ▸ hlt)), hlow j hj hlt]

/-- It is not when it is not called or not spaced; and no other lane is either. -/
theorem LanesReadied.releases_none {u : State} (h : LanesReadied s u n [k]) (ho : p.layout.order = .staggered)
    (hnone : ∀ j ∈ p.laneList, s.releasable n p j = false)
    (hk : (s.head (headOf n k)).called = false ∨ s.spaced n p k = false) : u.lanesToRelease n p = [] := by
  refine (State.lanesToRelease_none ho).2 fun j hj => ?_
  by_cases e : j = k
  · rw [e, h.releasable_readied p (List.mem_singleton_self k), Bool.and_eq_false_iff]
    exact hk
  · rw [h.releasable_other p (by simpa using e), hnone j hj]

end

/-! ### LANE READY in TOGETHER order -/

section
variable {s u : State} {n : RampNo} {p : Plan}

/-- A group that has become READY is released when it is called, and only then (R114). -/
theorem LanesReadied.releases_group (h : LanesReadied s u n p.laneList) (ho : p.layout.order = .together) :
    u.lanesToRelease n p = if s.groupCalled n p = true then p.laneList else [] := by
  rw [State.lanesToRelease_group ho, h.groupCalled p]
  simp only [and_iff_right fun j hj => h.cycle_ready hj]

end

/-- Settles O28: the conditions each by its own lemma; then the lanes made READY, and the release those conditions bring. -/
theorem lanesRelease : Obligations.LanesRelease := by
  refine ⟨fun s n p => ⟨s.spaced_iff n p, fun k => (s.head (headOf n k)).called_iff, s.releasable_iff n p,
    s.groupCalled_iff n p, fun ho => ⟨State.lanesToRelease_lowest ho, State.lanesToRelease_none ho⟩,
    fun ho => State.lanesToRelease_group ho⟩, ?_⟩
  intro s n p k hr hp hk
  refine ⟨fun ho hhold hi hred => ?_, fun ho hc hall => ?_, fun ho hc hrel hlow => ?_⟩
  · have w : (s.head (headOf n k)).Waited ((s.ramp n).interval k) p.timing.minRed := ⟨hhold, hi, hred⟩
    have hready := State.lane_readied w
    have hju := s.judgeLanes_rampOnly n p [k]
    have hpu := hready.ramp.symm ▸ hp
    have hexec := fun hc => exec_laneReady hr hp hk hc w
    rw [Plan.lanesWith_staggered ho] at hexec
    refine ⟨fun hs => ?_, fun hc hcall hspace hlow => ?_, fun hc hnone hno => ?_⟩
    · rw [State.laneReady_settling hp hs w] at hexec
      have hset := s.setCycle_rampOnly n k .ready
      refine ⟨_, hexec (.inr hs), by simp [State.setCycle], by simp [State.setCycle], fun g hg => ?_, hset.1, hset.2⟩
      simp [State.setCycle, State.head_writeHead_other, hg]
    · rw [State.release_of_lanes hpu (hready.ramp.symm ▸ hc)
        (hready.releases_lane ho hk hcall hspace hlow) (List.cons_ne_nil k [])] at hexec
      have hg := hju.trans (State.greenStarts_rampOnly _ n [k])
      exact ⟨_, hexec (.inl hc), (State.greenStarts_started hpu (nodup_lane k)).of_ramp hready.ramp,
        State.greenStarts_heads_but hju fun j hj => hready.others j (by simpa using hj), hg.1, hg.2⟩
    · rw [State.release_of_none hpu fun _ => hready.releases_none ho hnone hno] at hexec
      have hg := hju.trans (State.reportEmpty_rampOnly _ n)
      refine ⟨_, hexec (.inl hc), ?_, (State.reportEmpty_reported hpu).of_ramp hready.ramp,
        hg.1.heads_but fun j hj => ?_, hg.1, hg.2⟩
      · rw [State.head_reportEmpty, hready.cycle_ready (List.mem_singleton_self k)]
      · rw [State.head_reportEmpty, hready.others j (by simpa using hj)]
  · have hready : LanesReadied s (s.judgeLanes n p p.laneList) n p.laneList :=
      State.judgeLanes_readied p.laneList_nodup hall
    have hju := s.judgeLanes_rampOnly n p p.laneList
    have hpu := hready.ramp.symm ▸ hp
    have hexec := exec_laneReady hr hp hk hc (hall k hk)
    rw [Plan.lanesWith_together ho] at hexec
    have hg := (hju.trans (State.tryRelease_rampOnly _ n)).trans (State.reportEmpty_rampOnly _ n)
    have hlanes := hready.releases_group ho
    refine ⟨_, hexec, hg.1, hg.2, fun ⟨hcyc, hcalled⟩ => ?_, fun hno => ?_⟩
    · rw [State.release_of_lanes hpu (hready.ramp.symm ▸ hcyc) (hlanes.trans (if_pos hcalled))
        (List.ne_nil_of_mem hk)]
      exact (State.greenStarts_started hpu p.laneList_nodup).of_ramp hready.ramp
    · have hnil : ((s.judgeLanes n p p.laneList).ramp n).cycling = true →
          (s.judgeLanes n p p.laneList).lanesToRelease n p = [] := by
        intro hcyc
        rw [hready.ramp] at hcyc
        have hcalled : s.groupCalled n p = false := hno.resolve_left fun hs => by
          rw [Ramp.cycling_false_of_settling hs] at hcyc
          cases hcyc
        rw [hlanes, hcalled]
        rfl
      rw [State.release_of_none hpu hnil]
      refine ⟨fun j hj => ?_, (State.reportEmpty_reported hpu).of_ramp hready.ramp⟩
      rw [State.head_reportEmpty, hready.cycle_ready hj]
  · have hd : s.spacingDue n k = true := by
      simp [State.spacingDue, hp, hc, ho, hk, hrel]
    have hl := (State.lanesToRelease_lowest ho k).2 ⟨hk, hrel, hlow⟩
    have hexec := exec_spacingExpiry hr hd
    rw [State.tryRelease_of_ne_nil hp hc (hl ▸ List.cons_ne_nil k []), hl] at hexec
    have hg := State.greenStarts_rampOnly s n [k]
    exact ⟨_, hexec, State.greenStarts_started hp (nodup_lane k),
      State.greenStarts_heads_but (RampOnly.refl n s) fun _ _ => rfl, hg.1, hg.2⟩

end Sys2Proof.Machine
end

section
/-! PROOFS. Lamp proving (R33, R34, R118 to R120): the readings, the fault that is due, and how a declaration is dealt with. -/

namespace Sys2Proof.Machine

/-! ### The table of R118 and the mark of R119 -/

/-- The table of R118, over every aspect and every pair of readings. -/
theorem mismatchClass_table (a : Aspect) (red green : Bool) : (a, red, green, mismatchClass a red green) ∈
    [(Aspect.red, true, false, none), (.red, false, true, some FaultClass.greenConflict),
      (.red, true, true, some .greenConflict), (.red, false, false, some .redOut),
      (.green, true, false, some .greenOut), (.green, false, true, none),
      (.green, true, true, some .greenConflict), (.green, false, false, some .greenOut),
      (.dark, true, false, some .strayRed), (.dark, false, true, some .greenConflict),
      (.dark, true, true, some .greenConflict), (.dark, false, false, none)] := by
  cases a <;> cases red <;> cases green <;> simp [mismatchClass]

theorem Head.reprove_clear {old new : Head} (h : new.shown = none) :
    old.reprove new = { new with mismatch := 0, standing := false } := by
  simp [Head.reprove, h]

theorem Head.reprove_restart {old new : Head} {f : FaultClass} (h : new.shown = some f)
    (hc : old.shown ≠ some f ∨ old.aspect ≠ new.aspect) : old.reprove new = { new with mismatch := 0 } := by
  simp only [Head.reprove, h]
  exact if_pos hc

theorem Head.reprove_runs {old new : Head} {f : FaultClass} (h : new.shown = some f) (ho : old.shown = some f)
    (ha : old.aspect = new.aspect) : old.reprove new = new := by
  simp only [Head.reprove, h]
  exact if_neg fun hc => hc.elim (fun x => x ho) fun x => x ha

/-! ### PROVING INPUT CHANGE (R118, R119) -/

/-- A head written takes its LAMP notice's live flag along when its standing mark is lost, and does nothing else to the sets. -/
theorem State.set_writeHead (s : State) (h : HeadNo) (c : Head) (l : Link) : ((s.writeHead h c).link l).set =
    if (s.head h).standing = true ∧ ((s.writeHead h c).head h).standing = false then liveClearIn .lamp h.val (s.link l).set
    else (s.link l).set := by
  rw [State.head_writeHead_same]
  unfold State.writeHead
  simp only [Bool.not_eq_true]
  split
  · rw [State.link_liveClear, State.setHead_link]
  · rw [State.setHead_link]

theorem exec_provingInputChange {s : State} (hr : s.resetHeld = false) (h : HeadNo) (red green : Bool) :
    exec (.provingInputChange h red green) s = .next (s.writeHead h { s.head h with
      redPin := red, greenPin := green, redProved := red, greenProved := green
      due := if red = (s.head h).redProved ∧ green = (s.head h).greenProved then (s.head h).due else none }) := by
  change Host.Outcome.next (s.provingInputs h red green) = _
  simp [State.provingInputs, hr]

/-! ### The fault that is due (R119) -/

section
variable {s : State} {h : HeadNo} {f : FaultClass}

theorem State.faultDue_of_due (hd : (s.head h).due = some f) : s.faultDue h = some f := by
  simp [State.faultDue, hd]

theorem State.faultDue_of_declares (hd : (s.head h).due = none) (hs : (s.head h).shown = some f)
    (hm : s.settings.tolerance ≤ (s.head h).mismatch)
    (hn : ¬ ((s.head h).standing = true ∧ (s.head h).lastFault = some f)) : s.faultDue h = some f := by
  simp only [State.faultDue, hd, Head.declares, hs]
  exact if_pos ⟨hm, hn⟩

/-! ### How a declaration is dealt with (R120) -/

theorem exec_provingFaultDeclared (hr : s.resetHeld = false) (hf : s.faultDue h = some f) :
    exec (.provingFaultDeclared h) s = .next (s.declare h f) := by
  change Host.Outcome.next (s.running fun t => t.tryDeclare h) = _
  rw [State.running_up hr]
  simp [State.tryDeclare, hf]

theorem State.laneInUse_iff (s : State) (h : HeadNo) : s.laneInUse h = true ↔
    ∃ p, (s.ramp (headRamp h)).plan = some p ∧ headLane h ∈ p.laneList := by
  unfold State.laneInUse
  cases (s.ramp (headRamp h)).plan <;> simp

theorem State.actionFor_lockout (hu : s.laneInUse h = true) (hr : (s.ramp (headRamp h)).running = true)
    (hf : f = .redOut ∨ f = .greenConflict) : s.actionFor h f = .lockout := by
  have hlocks : f.locks = true := by rcases hf with rfl | rfl <;> rfl
  simp [State.actionFor, hu, FaultClass.action, hr, hlocks]

theorem Ramp.not_running_of_lockout {r : Ramp} (h : r.state = .lockout) : r.running = false := by
  simp [Ramp.running, h]

theorem State.actionFor_lockoutAgain (hu : s.laneInUse h = true) (hs : (s.ramp (headRamp h)).state = .lockout)
    (hf : f = .greenConflict ∨ f = .strayRed) : s.actionFor h f = .lockoutAgain := by
  rcases hf with rfl | rfl <;> simp [State.actionFor, hu, FaultClass.action, Ramp.not_running_of_lockout hs, hs]

theorem State.actionFor_nothing (hu : s.laneInUse h = true) (hs : (s.ramp (headRamp h)).state = .lockout)
    (hf : f = .redOut ∨ f = .greenOut) : s.actionFor h f = .nothing := by
  rcases hf with rfl | rfl <;> simp [State.actionFor, hu, FaultClass.action, Ramp.not_running_of_lockout hs, hs]

/-- The LAMP notice: a head out of use, a class that does not lock a running ramp, a ramp that neither runs nor is locked. -/
theorem State.actionFor_lamp (hc : s.laneInUse h = false ∨
    (s.ramp (headRamp h)).running = true ∧ (f = .greenOut ∨ f = .strayRed) ∨
      (s.ramp (headRamp h)).state = .vacant ∨ (s.ramp (headRamp h)).state = .parked) : s.actionFor h f = .lamp := by
  unfold State.actionFor
  rcases hc with hu | ⟨hr, hf⟩ | hs | hs
  · simp [hu]
  · have hlocks : f.locks = false := by rcases hf with rfl | rfl <;> rfl
    simp [FaultClass.action, hr, hlocks]
  · simp [FaultClass.action, Ramp.running, hs]
  · simp [FaultClass.action, Ramp.running, hs]

theorem State.declare_dropped (ha : s.actionFor h f = .nothing) :
    s.declare h f = s.setHead h { s.head h with due := none } := if_pos ha

theorem State.declare_dealt {a : FaultAction} (ha : s.actionFor h f = a) (hn : a ≠ .nothing) :
    s.declare h f = (s.setHead h ((s.head h).declared f)).dealWith h f a := by
  rw [State.declare, ha, if_neg hn]

theorem State.declare_locksOut (ha : s.actionFor h f = .lockout) :
    s.declare h f = (s.setHead h ((s.head h).declared f)).enterLockout (headRamp h) h f :=
  State.declare_dealt ha (by simp)

theorem State.declare_notifiesLockout (ha : s.actionFor h f = .lockoutAgain) :
    s.declare h f = (s.setHead h ((s.head h).declared f)).lockoutNotice (headRamp h) h f :=
  State.declare_dealt ha (by simp)

/-- The LAMP notice tells the aspect and the ramp's state as they stand. -/
theorem State.declare_notifiesLamp (ha : s.actionFor h f = .lamp) :
    s.declare h f = (s.setHead h ((s.head h).declared f)).raise .lamp h.val
      (.lamp f (s.head h).aspect (s.ramp (headRamp h)).state) true := by
  refine (State.declare_dealt ha (by simp)).trans ?_
  rw [State.dealWith, State.lampNotice, State.head_setHead_same, State.setHead_ramp]
  rfl

end

/-! ### The heads as a ramp enters LOCKOUT (R33, R110) -/

/-- A head taken to DARK, its time since the last green end 0 when that cuts a green short (R110). -/
theorem Head.darkened_eq (h : Head) : h.darkened = { h with
    cycle := .dark, sinceEnd := if h.cycle = .green ∨ h.cycle = .restGreen then 0 else h.sinceEnd } := by
  obtain ⟨c⟩ := h
  cases c <;> rfl

theorem State.head_enterLockout (s : State) (h : HeadNo) (f : FaultClass) (g : HeadNo) (hg : headRamp g = headRamp h) :
    (s.enterLockout (headRamp h) h f).head g = (s.head g).reprove { s.head g with
      cycle := .dark
      sinceEnd := if (s.head g).cycle = .green ∨ (s.head g).cycle = .restGreen then 0 else (s.head g).sinceEnd } := by
  rw [State.enterLockout, State.lockoutNotice, State.raise_head, State.modRamp_head, ← hg, ← headOf_parts g,
    headRamp_headOf, State.head_darken, State.head_leaveRunning, Head.darkened_eq]

theorem State.due_enterLockout (s : State) (n : RampNo) (h g : HeadNo) (f : FaultClass) :
    ((s.enterLockout n h f).head g).due = (s.head g).due := by
  simp [State.enterLockout, State.lockoutNotice]

/-- A standing mark that head `g` has lost since `s` took the live flag of its LAMP notice with it (R119, R150). -/
def LampFollows (s : State) (g : HeadNo) (t : State) : Prop :=
  (s.head g).standing = true → (t.head g).standing = false → NotLive t .lamp g.val

theorem LampFollows.refl (s : State) (g : HeadNo) : LampFollows s g s := fun h k => by
  rw [h] at k
  cases k

section
variable {s t u : State} {g : HeadNo}

theorem LampFollows.of_head (h : LampFollows s g t) (hh : u.head g = t.head g) (hu : Untouched .lamp g.val t u) :
    LampFollows s g u := fun hs hn => hu.2 (h hs (hh ▸ hn))

theorem LampFollows.writeHead (h : LampFollows s g t) (x : HeadNo) (c : Head) : LampFollows s g (t.writeHead x c) := by
  intro hs hn
  by_cases e : g = x
  · subst e
    cases ht : (t.head g).standing with
    | false => exact (h hs ht).writeHead g c
    | true =>
      rw [State.head_writeHead_same] at hn
      unfold State.writeHead
      simp only [ht, hn, true_and, Bool.false_eq_true, not_false_eq_true, if_true]
      exact notLive_liveClear _ _ _
  · rw [State.head_writeHead_other t c e] at hn
    exact (h hs hn).writeHead x c

theorem LampFollows.darken (h : LampFollows s g t) (n : RampNo) : LampFollows s g (t.darken n) :=
  State.eachLane_induct (P := LampFollows s g) (fun _ _ hx => hx.writeHead _ _) _ h

theorem LampFollows.enterLockout (s : State) (n : RampNo) (h : HeadNo) (f : FaultClass) (g : HeadNo) :
    LampFollows s g (s.enterLockout n h f) :=
  ((((LampFollows.refl s g).of_head (by simp) (untouched_leaveRunning s (by simp))).darken n).of_head (by simp)
    (untouched_modRamp _ _ _ n _)).of_head (by simp [State.enterLockout, State.lockoutNotice])
    (untouched_raise _ _ _ (by simp))

end

theorem State.enterLockout_raised (s : State) (n : RampNo) (h : HeadNo) (f : FaultClass) :
    Raised (s.enterLockout n h f) .lockout n.val (.lockout .lockout .provingFault h f) false := raised_raise _ _ _ _ _

theorem State.enterLockout_flush {s : State} {n : RampNo} (hs : (s.ramp n).state = .flushing) (h : HeadNo) (f : FaultClass) :
    NotLive (s.enterLockout n h f) .flush n.val :=
  (((untouched_darken _ _ (by simp) n).trans (untouched_modRamp _ _ _ n _)).trans
    (untouched_raise _ _ _ (by simp))).2 (State.leaveRunning_notLive hs)

/-! ### The obligation -/

/-- Settles O58: the table and the mark each by its own lemma; then the readings as a write of the head, and each declaration by
what R120 does with it. -/
theorem provingTaken : Obligations.ProvingTaken := by
  refine ⟨fun h => mismatchClass_table _ _ _, fun old new => ⟨Head.reprove_clear, fun f => Head.reprove_restart,
    fun f => Head.reprove_runs⟩, fun s h red green hr => ⟨?_, fun f hs hm hn hd => ?_, fun f => State.faultDue_of_due,
    fun f hf => ?_⟩⟩
  · have hw := s.writeHead_rampOnly h { s.head h with
      redPin := red, greenPin := green, redProved := red, greenProved := green
      due := if red = (s.head h).redProved ∧ green = (s.head h).greenProved then (s.head h).due else none }
    exact ⟨_, exec_provingInputChange hr h red green, s.set_writeHead h _, State.head_writeHead_same s h _,
      fun g hg => State.head_writeHead_other s _ hg, State.writeHead_ramps s h _, hw.1, hw.2⟩
  · exact hd.elim (fun hd => State.faultDue_of_declares hd hs hm hn) State.faultDue_of_due
  · intro r used
    have huse : used ↔ s.laneInUse h = true := (s.laneInUse_iff h).symm
    have hexec := exec_provingFaultDeclared hr hf
    have hm := s.declare_rampOnly h f
    refine ⟨fun hu hrun hclass => ?_, fun hu hs hclass => ?_, fun hu hs hclass => ?_, fun hc => ?_⟩
    · rw [State.declare_locksOut (State.actionFor_lockout (huse.1 hu) hrun hclass)] at hexec hm
      have hramp := State.ramp_enterLockout (s.setHead h ((s.head h).declared f)) (headRamp h) h f
      have hheads := State.head_enterLockout (s.setHead h ((s.head h).declared f)) h f
      rw [State.setHead_ramp] at hramp
      refine ⟨_, hexec, hm.1, hm.2, ?_, ?_, ?_, ?_, ?_, ?_, ?_, ?_, ?_, ?_, ?_, State.enterLockout_dark _ _ h f, ?_,
        fun g hg => ?_, fun g hg => ?_, fun hfl => ?_, State.enterLockout_raised _ _ h f⟩
      case refine_1 =>
        rw [hheads h rfl, Head.reprove_lastFault, State.head_setHead_same]
        rfl
      case refine_12 =>
        rw [State.beacon_up (hm.1.toRestSame.resetHeld.trans hr), hramp]
        rfl
      case refine_13 =>
        have hold := s.head_setHead h g ((s.head h).declared f)
        have hlamp := LampFollows.enterLockout (s.setHead h ((s.head h).declared f)) (headRamp h) h f g
        have hhead := hheads g hg
        unfold LampFollows at hlamp
        rw [hold] at hlamp hhead
        exact ⟨hhead, hlamp⟩
      case refine_14 => rw [State.due_enterLockout, State.head_setHead_other s _ hg]
      case refine_15 => exact State.enterLockout_flush (by rw [State.setHead_ramp]; exact hfl) h f
      all_goals simp [hramp, RatesKept, r]
    · rw [State.declare_notifiesLockout (State.actionFor_lockoutAgain (huse.1 hu) hs hclass)] at hexec hm
      exact ⟨_, hexec, hm.1, hm.2, rfl, rfl, raised_raise _ _ _ _ _⟩
    · rw [State.declare_dropped (State.actionFor_nothing (huse.1 hu) hs hclass)] at hexec
      exact hexec
    · have hc' := hc.imp_left fun hn => Bool.eq_false_iff.2 fun hu => hn (huse.2 hu)
      rw [State.declare_notifiesLamp (State.actionFor_lamp hc')] at hexec hm
      exact ⟨_, hexec, hm.1, hm.2, rfl, rfl, raised_raise _ _ _ _ _⟩

end Sys2Proof.Machine
end

section
/-! What a command that writes one ramp record, and one that writes none, leaves of the state once it is answered (R137, R139). -/

namespace Sys2Proof.Machine

section
variable {s : State} {l : Link} {code : Byte} {run : State → State × Reply} {r : Reply}

/-- A command by which its block rewrites ramp `n`'s record and nothing else. -/
theorem State.frame_modRamp {n : RampNo} {g : Ramp → Ramp} (h : s.takes l)
    (e : run (s.goodFrame l) = ((s.goodFrame l).modRamp n g, r)) :
    (s.frame l code run).ramp n = g (s.ramp n) ∧ (s.frame l code run).heads = s.heads ∧
      Answered s (s.frame l code run) l code r.status r.result ∧ NoNotice s (s.frame l code run) l ∧
      OnlyRamp n s (s.frame l code run) := by
  rw [State.frame_eq h e]
  have hm := State.modRamp_rampOnly (s.goodFrame l) n g
  exact ⟨by simp, by simp, answered_of_setsOnly hm.2 code r, noNotice_of_sets (by simp) code r, hm.1.framed code r⟩

/-- A command that its block answers without a change: only the links differ. -/
theorem State.frame_unchanged (h : s.takes l) (e : run (s.goodFrame l) = (s.goodFrame l, r)) :
    Answered s (s.frame l code run) l code r.status r.result ∧ NoNotice s (s.frame l code run) l ∧
      OnlyLinks s (s.frame l code run) := by
  rw [State.frame_eq h e]
  exact ⟨answered_of_setsOnly (SetsOnly.refl _) code r, noNotice_of_sets (fun _ => rfl) code r,
    (OnlyLinks.refl _).framed code r⟩

end

theorem State.setRamp_self (s : State) (n : RampNo) : s.setRamp n (s.ramp n) = s := by
  have same : s.ramps.set n (s.ramps.get n) = s.ramps := Table.ext fun i => by
    rw [Table.get_set]
    split
    · next e => rw [e]
    · rfl
  exact congrArg (fun t => { s with ramps := t }) same

end Sys2Proof.Machine
end

section
/-! The order of the refusals in the commands that check authority (R122): RANGE, ABSENT, STATE, AUTHORITY. -/

namespace Sys2Proof.Machine

theorem Ramp.not_allows_of_other {r : Ramp} {l : Link} (h : ∃ k, k ≠ l ∧ r.authority = some k) : r.allows l = false := by
  obtain ⟨k, other, held⟩ := h
  simp [Ramp.allows, held, other]

/-- The command `i` with its code refuses a ramp number out of range, a VACANT ramp, a ramp in one of `states`, and a ramp
that the other link holds, in this order (R122). -/
def RefusesInOrder (s : State) (l : Link) (ramp : Byte) (i : Instr) (code : Byte) (states : List RampState) : Prop :=
  (rampArg ramp = none → ∃ t, exec i s = .next t ∧ Refused s t l code .range) ∧
    ∀ n, rampArg ramp = some n →
      ((s.ramp n).state = .vacant → ∃ t, exec i s = .next t ∧ Refused s t l code .absent) ∧
      ((s.ramp n).plan.isSome = true → (s.ramp n).state ≠ .vacant →
        ((s.ramp n).state ∈ states → ∃ t, exec i s = .next t ∧ Refused s t l code .state) ∧
        ((s.ramp n).state ∉ states → (∃ k, k ≠ l ∧ (s.ramp n).authority = some k) →
          ∃ t, exec i s = .next t ∧ Refused s t l code .authority))

section
variable {s : State} {l : Link} {ramp : Byte}

/-- A block behind `onPlan`, which makes the first two refusals, makes them all once it makes the last two itself. -/
theorem refusesInOrder_of_onPlan {i : Instr} {code : Byte} {states : List RampState}
    {f : State → RampNo → Plan → State × Reply} (ht : s.takes l)
    (hexec : exec i s = .next (s.frame l code fun t => t.onPlan ramp (f t)))
    (hstate : ∀ t n p, (t.ramp n).state ∈ states → f t n p = (t, .refuse .state))
    (hauth : ∀ t n p, (t.ramp n).state ≠ .vacant → (t.ramp n).state ∉ states → (t.ramp n).allows l = false →
      f t n p = (t, .refuse .authority)) :
    RefusesInOrder s l ramp i code states := by
  refine ⟨fun hn => ⟨_, hexec, State.frame_refused ht (State.onPlan_range hn)⟩, fun n hn =>
    ⟨fun hv => ⟨_, hexec, State.frame_refused ht (State.onPlan_vacant hn (by simpa using hv))⟩, fun hp hv => ?_⟩⟩
  obtain ⟨p, hp⟩ := Option.isSome_iff_exists.1 hp
  have reaches : (s.goodFrame l).onPlan ramp (f (s.goodFrame l)) = f (s.goodFrame l) n p :=
    State.onPlan_some hn (by simpa using hv) (by simpa using hp)
  refine ⟨fun hs => ⟨_, hexec, State.frame_refused ht (reaches.trans (hstate _ n p (by simpa using hs)))⟩,
    fun hs hother => ⟨_, hexec, State.frame_refused ht (reaches.trans (hauth _ n p ?_ ?_ ?_))⟩⟩
  · simpa using hv
  · simpa using hs
  · simpa using Ramp.not_allows_of_other hother

theorem openRamp_refusesInOrder (ht : s.takes l) :
    RefusesInOrder s l ramp (.openRamp l ramp) 0x15 [.closing, .lockout] := by
  refine refusesInOrder_of_onPlan ht rfl (fun t n p hs => ?_) (fun t n p hv hs ha => ?_)
  · obtain hs | hs : (t.ramp n).state = .closing ∨ (t.ramp n).state = .lockout := by simpa using hs
    · simp [hs]
    · simp [hs]
  · cases h : (t.ramp n).state with
    | vacant => exact absurd h hv
    | closing | lockout => simp [h] at hs
    | parked | opening | metering | flushing => simp [ha]

theorem closeRamp_refusesInOrder (ht : s.takes l) : RefusesInOrder s l ramp (.closeRamp l ramp) 0x16 [.lockout] :=
  refusesInOrder_of_onPlan ht rfl (fun _ _ _ hs => if_pos (List.mem_singleton.1 hs)) fun _ _ _ _ hs ha =>
    (if_neg fun e => hs (List.mem_singleton.2 e)).trans (if_pos (by simp [ha]))

theorem amend_refusesInOrder (ht : s.takes l) (control : Table Byte 16) (target : Byte) :
    RefusesInOrder s l ramp (.amend l ramp control target) 0x13 [.lockout] :=
  refusesInOrder_of_onPlan ht rfl (fun _ _ _ hs => if_pos (List.mem_singleton.1 hs)) fun _ _ _ _ hs ha =>
    (if_neg fun e => hs (List.mem_singleton.2 e)).trans (if_pos (by simp [ha]))

/-- REPLACE PLAN is taken in PARKED alone (R12). -/
theorem replacePlan_refusesInOrder (ht : s.takes l) (source slot : Byte) :
    RefusesInOrder s l ramp (.replacePlan l ramp source slot) 0x12 [.opening, .metering, .flushing, .closing, .lockout] := by
  refine refusesInOrder_of_onPlan ht rfl (fun t n p hs => if_pos fun h => ?_) fun t n p hv hs ha =>
    (if_neg fun h => ?_).trans (if_pos (by simp [ha]))
  · simp [h] at hs
  · cases e : (t.ramp n).state with
    | vacant => exact hv e
    | parked => exact h e
    | opening | metering | flushing | closing | lockout => simp [e] at hs

theorem retire_refusesInOrder (ht : s.takes l) : RefusesInOrder s l ramp (.retire l ramp) 0x14 [] :=
  refusesInOrder_of_onPlan ht rfl (fun _ _ _ hs => absurd hs List.not_mem_nil) fun _ _ _ _ _ ha => if_pos (by simp [ha])

theorem overrideRate_refusesInOrder (ht : s.takes l) (rate duration : Word) :
    RefusesInOrder s l ramp (.overrideRate l ramp rate duration) 0x18 [] :=
  refusesInOrder_of_onPlan ht rfl (fun _ _ _ hs => absurd hs List.not_mem_nil) fun _ _ _ _ _ ha => if_pos (by simp [ha])

theorem endOverride_refusesInOrder (ht : s.takes l) : RefusesInOrder s l ramp (.endOverride l ramp) 0x19 [] :=
  refusesInOrder_of_onPlan ht rfl (fun _ _ _ hs => absurd hs List.not_mem_nil) fun _ _ _ _ _ ha => if_pos (by simp [ha])

/-- CLEAR LOCKOUT is taken in LOCKOUT alone (R34). -/
theorem clearLockout_refusesInOrder (ht : s.takes l) :
    RefusesInOrder s l ramp (.clearLockout l ramp) 0x17 [.parked, .opening, .metering, .flushing, .closing] := by
  refine refusesInOrder_of_onPlan ht rfl (fun t n p hs => if_pos fun h => ?_) fun t n p hv hs ha =>
    (if_neg fun h => ?_).trans (if_pos (by simp [ha]))
  · simp [h] at hs
  · cases e : (t.ramp n).state with
    | vacant => exact hv e
    | lockout => exact h e
    | parked | opening | metering | flushing | closing => simp [e] at hs

end

/-- Settles O23: each of the eight commands by its own lemma. -/
theorem rampCommandsRefused : Obligations.RampCommandsRefused := by
  intro s l ramp source slot control target rate duration ht c hc
  simp only [List.mem_cons, List.not_mem_nil, or_false] at hc
  obtain rfl | rfl | rfl | rfl | rfl | rfl | rfl | rfl := hc
  · exact openRamp_refusesInOrder ht
  · exact closeRamp_refusesInOrder ht
  · exact amend_refusesInOrder ht control target
  · exact replacePlan_refusesInOrder ht source slot
  · exact retire_refusesInOrder ht
  · exact overrideRate_refusesInOrder ht rate duration
  · exact endOverride_refusesInOrder ht
  · exact clearLockout_refusesInOrder ht

end Sys2Proof.Machine
end

section
/-! TAKE and YIELD AUTHORITY (R123 to R125): the outcome for one ramp record, then the command for one ramp and with ALL. -/

namespace Sys2Proof.Machine

/-! ### The outcome for one record -/

section
variable {r : Ramp} {l : Link} {takeover : Bool}

theorem Ramp.take_vacant (h : r.state = .vacant) : r.take l takeover = (r, .vacant) := if_pos h

theorem Ramp.take_granted (hv : r.state ≠ .vacant) (ha : r.authority = none) (hl : l = .loc ∨ takeover = false) :
    r.take l takeover = ({ r with authority := some l }, .granted) := by
  cases l with
  | loc => simp [Ramp.take, hv, ha]
  | centre => simp [Ramp.take, hv, ha, hl.resolve_left (by decide)]

theorem Ramp.take_held (hv : r.state ≠ .vacant) (ha : r.authority = some l) (hl : l = .loc ∨ takeover = false) :
    r.take l takeover = (r, .held) := by
  cases l with
  | loc => simp [Ramp.take, hv, ha]
  | centre => simp [Ramp.take, hv, ha, hl.resolve_left (by decide)]

/-- The local link takes a ramp from the centre under TAKEOVER. -/
theorem Ramp.take_preempts (hv : r.state ≠ .vacant) (ha : r.authority = some .centre) :
    r.take .loc true = ({ r.endCentreOverride with authority := some .loc }, .granted) := by
  simp [Ramp.take, hv, ha]

theorem Ramp.take_refused (hv : r.state ≠ .vacant)
    (h : l = .centre ∧ (takeover = true ∨ r.authority = some .loc) ∨
      l = .loc ∧ takeover = false ∧ r.authority = some .centre) : r.take l takeover = (r, .refused) := by
  obtain ⟨rfl, ht | ha⟩ | ⟨rfl, ht, ha⟩ := h
  · cases ha : r.authority with
    | none => simp [Ramp.take, hv, ha, ht]
    | some k => cases k <;> simp [Ramp.take, hv, ha, ht]
  · simp [Ramp.take, hv, ha]
  · simp [Ramp.take, hv, ha, ht]

/-- The end of a centre override touches nothing else of the record (R123). -/
theorem Ramp.endCentreOverride_eq (r : Ramp) :
    r.endCentreOverride = { r with override := r.endCentreOverride.override } := by
  unfold Ramp.endCentreOverride
  repeat' split
  all_goals rfl

theorem Ramp.override_endCentreOverride_none (h : r.override = none) : r.endCentreOverride.override = none := by
  simp [Ramp.endCentreOverride, h]

theorem Ramp.override_endCentreOverride_some {o : Override} (h : r.override = some o) :
    r.endCentreOverride.override = if o.setBy = .centre then none else some o := by
  simp only [Ramp.endCentreOverride, h]
  split
  · rfl
  · exact h

theorem Ramp.yieldTo_vacant (h : r.state = .vacant) : r.yieldTo l = (r, .vacant) := if_pos h

theorem Ramp.yieldTo_yielded (hv : r.state ≠ .vacant) (ha : r.authority = some l) :
    r.yieldTo l = ({ r with authority := none }, .yielded) := by
  simp [Ramp.yieldTo, hv, ha]

theorem Ramp.yieldTo_none (hv : r.state ≠ .vacant) (ha : r.authority = none) : r.yieldTo l = (r, .none) := by
  simp [Ramp.yieldTo, hv, ha]

theorem Ramp.yieldTo_other (hv : r.state ≠ .vacant) (h : ∃ k, k ≠ l ∧ r.authority = some k) :
    r.yieldTo l = (r, .other) := by
  obtain ⟨k, hk, ha⟩ := h
  simp [Ramp.yieldTo, hv, ha, hk]

/-- A YIELD changes the record of a ramp that the sending link holds, and no other (R125). -/
theorem Ramp.yieldTo_record (r : Ramp) (l : Link) : (r.yieldTo l).1 =
    if r.state ≠ .vacant ∧ r.authority = some l then { r with authority := none } else r := by
  by_cases hv : r.state = .vacant
  · rw [Ramp.yieldTo_vacant hv, if_neg fun h => h.1 hv]
  · by_cases ha : r.authority = some l
    · rw [Ramp.yieldTo_yielded hv ha, if_pos ⟨hv, ha⟩]
    · rw [if_neg fun h => ha h.2]
      cases hk : r.authority with
      | none => rw [Ramp.yieldTo_none hv hk]
      | some k => rw [Ramp.yieldTo_other hv ⟨k, fun e => ha (by rw [hk, e]), hk⟩]

end

/-! ### The commands, for the outcome `f` of each record -/

section
variable {s : State} {l : Link} {code ramp : Byte} {n : RampNo} {f : Ramp → Ramp × AuthorityOutcome}
  {o : AuthorityOutcome}

theorem State.authorityOne_none (hr : ramp ≠ 0xFF) (hn : rampArg ramp = none) :
    s.authorityOne ramp f = (s, .refuse .range) := by
  rw [State.authorityOne, if_neg hr, State.onRamp_none hn]

theorem State.authorityOne_some (hr : ramp ≠ 0xFF) (hn : rampArg ramp = some n) :
    s.authorityOne ramp f = (s.modRamp n fun r => (f r).1, (f (s.ramp n)).2.reply) := by
  rw [State.authorityOne, if_neg hr, State.onRamp_some hn]
  rfl

theorem State.authorityOne_same (hr : ramp ≠ 0xFF) (hn : rampArg ramp = some n) (e : f (s.ramp n) = (s.ramp n, o)) :
    s.authorityOne ramp f = (s, o.reply) := by
  rw [State.authorityOne_some hr hn, State.modRamp, e, State.setRamp_self]

theorem State.frame_authorityOne_moves (ht : s.takes l) (hr : ramp ≠ 0xFF) (hn : rampArg ramp = some n) {r : Ramp}
    (e : f (s.ramp n) = (r, o)) {bytes : List Byte} (ho : o.reply = .with bytes) :
    let t := s.frame l code fun u => u.authorityOne ramp f
    t.ramp n = r ∧ t.heads = s.heads ∧ Answered s t l code .done bytes ∧ NoNotice s t l ∧ OnlyRamp n s t := by
  have h := State.frame_modRamp (code := code) (run := fun u => u.authorityOne ramp f) ht
    (State.authorityOne_some hr hn)
  rw [State.goodFrame_ramp, e, ho] at h
  exact h

theorem State.frame_authorityOne_same (ht : s.takes l) (hr : ramp ≠ 0xFF) (hn : rampArg ramp = some n)
    (e : f (s.ramp n) = (s.ramp n, o)) {bytes : List Byte} (ho : o.reply = .with bytes) :
    let t := s.frame l code fun u => u.authorityOne ramp f
    Answered s t l code .done bytes ∧ NoNotice s t l ∧ OnlyLinks s t := by
  have h := State.frame_unchanged (code := code) (run := fun u => u.authorityOne ramp f) ht
    (State.authorityOne_same hr hn (o := o) (by rw [State.goodFrame_ramp, e]))
  rw [ho] at h
  exact h

theorem State.frame_authorityOne_refused (ht : s.takes l) (hr : ramp ≠ 0xFF) (hn : rampArg ramp = some n)
    (e : f (s.ramp n) = (s.ramp n, o)) {st : Status} (ho : o.reply = .refuse st) :
    Refused s (s.frame l code fun u => u.authorityOne ramp f) l code st :=
  State.frame_refused ht ((State.authorityOne_same hr hn (by rw [State.goodFrame_ramp, e])).trans (by rw [ho]))

theorem State.frame_authorityAll (ht : s.takes l) (f : Ramp → Ramp × AuthorityOutcome) :
    let t := s.frame l code fun u => u.authorityAll f
    (∀ n, t.ramp n = (f (s.ramp n)).1) ∧ Answered s t l code .done (s.ramps.cells.map fun r => (f r).2.byte) ∧
      NoNotice s t l ∧ t.heads = s.heads ∧ t.chans = s.chans ∧ t.zones = s.zones ∧ RestSame s t := by
  intro t
  have links : ∀ k, ((s.goodFrame l).authorityAll f).1.link k = (s.goodFrame l).link k := fun k => by cases k <;> rfl
  have rest : RestSame (s.goodFrame l) ((s.goodFrame l).authorityAll f).1 := RestSame.of_ramps _ _
  have form : t = ((s.goodFrame l).authorityAll f).1.respond l code ((s.goodFrame l).authorityAll f).2 :=
    State.frame_takes ht
  have answer := answered_of_setsOnly (SetsOnly.of_links links) code ((s.goodFrame l).authorityAll f).2
  rw [form]
  refine ⟨fun n => ?_, ?_, noNotice_of_sets (fun k => by rw [links]) code _, ?_, ?_, ?_, rest.framed code _⟩
  · rw [State.respond_ramp]
    exact (Table.get_map _ _ n).trans (by rw [State.goodFrame_ramps]; rfl)
  · simpa [State.authorityAll, Reply.with] using answer
  all_goals simp [State.authorityAll]

end

/-! ### TAKE AUTHORITY (R123, R124) -/

theorem exec_takeAuthority {s : State} {l : Link} (ht : s.takes l) (ramp : Byte) : exec (.takeAuthority l ramp) s =
    .next (s.frame l 0x1A fun t => t.authorityOne ramp fun r => r.take l s.takeover) := by
  change Host.Outcome.next (s.frame l 0x1A fun t => t.authorityOne ramp fun r => r.take l t.takeover) = _
  rw [State.frame_takes ht, State.frame_takes ht, State.goodFrame_takeover]

theorem exec_takeAuthorityAll {s : State} {l : Link} (ht : s.takes l) : exec (.takeAuthorityAll l) s =
    .next (s.frame l 0x1A fun t => t.authorityAll fun r => r.take l s.takeover) := by
  change Host.Outcome.next (s.frame l 0x1A fun t => t.authorityAll fun r => r.take l t.takeover) = _
  rw [State.frame_takes ht, State.frame_takes ht, State.goodFrame_takeover]

/-- Settles O35: the cells of R123's table, each with the outcome that the record gives, and ALL over every record. -/
theorem authorityTaken : Obligations.AuthorityTaken := by
  intro s l ramp ht hr
  have hexec := exec_takeAuthority ht ramp
  refine ⟨fun hn => ⟨_, hexec, State.frame_refused ht (State.authorityOne_none hr hn)⟩, fun n hn => ⟨fun hv => ?_,
    fun hv => ⟨fun ha hl => ?_, fun ha hl => ?_, fun ha hl htake => ?_, fun h => ?_⟩⟩,
    _, exec_takeAuthorityAll ht, State.frame_authorityAll ht _⟩
  · exact ⟨_, hexec, State.frame_authorityOne_refused ht hr hn (Ramp.take_vacant hv) rfl⟩
  · exact ⟨_, hexec, State.frame_authorityOne_moves ht hr hn (Ramp.take_granted hv ha hl) rfl⟩
  · exact ⟨_, hexec, State.frame_authorityOne_same ht hr hn (Ramp.take_held hv ha hl) rfl⟩
  · subst hl
    rw [htake] at hexec
    obtain ⟨hramp, hheads, hanswer, hquiet, honly⟩ := State.frame_authorityOne_moves (code := 0x1A) ht hr hn
      (f := fun r => r.take .loc true) (Ramp.take_preempts hv ha) rfl
    refine ⟨_, hexec, by rw [hramp], ?_, ?_, hheads, hanswer, hquiet, honly⟩
    · rw [hramp]
      cases ho : (s.ramp n).override with
      | none => exact Ramp.override_endCentreOverride_none ho
      | some o => exact Ramp.override_endCentreOverride_some ho
    · rw [hramp]
      exact congrArg (fun r : Ramp => { r with authority := some .loc }) (s.ramp n).endCentreOverride_eq
  · exact ⟨_, hexec, State.frame_authorityOne_refused ht hr hn (Ramp.take_refused hv h) rfl⟩

/-! ### YIELD AUTHORITY (R125) -/

theorem exec_yieldAuthority (l : Link) (ramp : Byte) (s : State) : exec (.yieldAuthority l ramp) s =
    .next (s.frame l 0x1B fun t => t.authorityOne ramp fun r => r.yieldTo l) := rfl

theorem exec_yieldAuthorityAll (l : Link) (s : State) : exec (.yieldAuthorityAll l) s =
    .next (s.frame l 0x1B fun t => t.authorityAll fun r => r.yieldTo l) := rfl

/-- Settles O36: the three outcomes of a YIELD for one ramp, and ALL over every record. -/
theorem authorityYielded : Obligations.AuthorityYielded := by
  intro s l ramp ht hr
  have hexec := exec_yieldAuthority l ramp s
  refine ⟨fun hn => ⟨_, hexec, State.frame_refused ht (State.authorityOne_none hr hn)⟩, fun n hn => ⟨fun hv => ?_,
    fun hv => ⟨fun ha => ?_, fun ha => ?_, fun h => ?_⟩⟩, ?_⟩
  · exact ⟨_, hexec, State.frame_authorityOne_refused ht hr hn (Ramp.yieldTo_vacant hv) rfl⟩
  · exact ⟨_, hexec, State.frame_authorityOne_moves ht hr hn (Ramp.yieldTo_yielded hv ha) rfl⟩
  · exact ⟨_, hexec, State.frame_authorityOne_same ht hr hn (Ramp.yieldTo_none hv ha) rfl⟩
  · exact ⟨_, hexec, State.frame_authorityOne_refused ht hr hn (Ramp.yieldTo_other hv h) rfl⟩
  · obtain ⟨hramps, hother⟩ := State.frame_authorityAll (code := 0x1B) ht fun r => r.yieldTo l
    exact ⟨_, exec_yieldAuthorityAll l s, fun n => (hramps n).trans (Ramp.yieldTo_record _ l), hother⟩

end Sys2Proof.Machine
end

section
/-! Overrides (R127 to R129): OVERRIDE, END OVERRIDE, the countdown and the expiry; and the TAKEOVER line (R126). -/

namespace Sys2Proof.Machine

section
variable {s : State} {l : Link} {ramp : Byte} {n : RampNo} {p : Plan} {rate duration : Word}

theorem State.overrideCommand_written (hn : rampArg ramp = some n) (hv : (s.ramp n).state ≠ .vacant)
    (hp : (s.ramp n).plan = some p) (ha : (s.ramp n).allows l = true)
    (hr : ¬ (rate.toNat < 60 ∨ 5400 < rate.toNat ∨ 7200 < duration.toNat)) :
    s.overrideCommand l ramp rate duration =
      (s.modRamp n fun r => { r with override := some (Override.ofArgs l rate duration) }, .done) := by
  rw [State.overrideCommand, State.onPlan_some hn hv hp, if_neg (by simp [ha]), if_neg hr]

theorem State.overrideCommand_range (hn : rampArg ramp = some n) (hv : (s.ramp n).state ≠ .vacant)
    (hp : (s.ramp n).plan = some p) (ha : (s.ramp n).allows l = true)
    (hr : rate.toNat < 60 ∨ 5400 < rate.toNat ∨ 7200 < duration.toNat) :
    s.overrideCommand l ramp rate duration = (s, .refuse .range) := by
  rw [State.overrideCommand, State.onPlan_some hn hv hp, if_neg (by simp [ha]), if_pos hr]

theorem State.endOverride_removed (hn : rampArg ramp = some n) (hv : (s.ramp n).state ≠ .vacant)
    (hp : (s.ramp n).plan = some p) (ha : (s.ramp n).allows l = true) :
    s.endOverride l ramp = (s.modRamp n fun r => { r with override := none }, .done) := by
  rw [State.endOverride, State.onPlan_some hn hv hp, if_neg (by simp [ha])]

end

theorem exec_overrideRate (l : Link) (ramp : Byte) (rate duration : Word) (s : State) :
    exec (.overrideRate l ramp rate duration) s =
      .next (s.frame l 0x18 fun t => t.overrideCommand l ramp rate duration) := rfl

theorem exec_endOverride (l : Link) (ramp : Byte) (s : State) :
    exec (.endOverride l ramp) s = .next (s.frame l 0x19 fun t => t.endOverride l ramp) := rfl

theorem exec_overrideExpiry {s : State} {n : RampNo} (hr : s.resetHeld = false) (hd : (s.ramp n).overrideDone = true) :
    exec (.overrideExpiry n) s = .next (s.modRamp n fun r => { r with override := none }) := by
  change Host.Outcome.next (s.running fun t =>
    if (t.ramp n).overrideDone then t.modRamp n fun r => { r with override := none } else t) = _
  rw [State.running_up hr, if_pos hd]

/-- The countdown: a second ends when the phase reaches 100, but the last second stays until the expiry is taken (R128). -/
theorem Override.count_timed {o : Override} {k : Nat} (h : o.remaining = some k) : o.count = { o with
    phase := if o.phase + 1 < 100 ∨ k ≤ 1 then min 100 (o.phase + 1) else 0
    remaining := some (if o.phase + 1 < 100 ∨ k ≤ 1 then k else k - 1) } := by
  simp only [Override.count, h]
  split
  · rw [← h]
    rfl
  · rfl

/-- A centisecond counts the override down and the other ticks leave it alone. -/
theorem State.override_tick (s : State) (n : RampNo) : (s.tick.ramp n).override = (s.ramp n).override.map Override.count := by
  rw [State.ramp_tick, Ramp.ticks_eq, Ramp.tickCs_eq]

/-- Settles O37: the two commands through their frames, the countdown by the tick, the expiry in its own event. -/
theorem overridesSetAndEnded : Obligations.OverridesSetAndEnded := by
  intro s l ramp rate duration n hn
  refine ⟨fun ht hp hv ha => ?_, fun o k ho hk => ?_, fun o k hr ho hk hlast hphase => ?_⟩
  · obtain ⟨p, hp⟩ := Option.isSome_iff_exists.1 hp
    have hp' : ((s.goodFrame l).ramp n).plan = some p := by simpa using hp
    have hv' : ((s.goodFrame l).ramp n).state ≠ .vacant := by simpa using hv
    have ha' : ((s.goodFrame l).ramp n).allows l = true := by simpa using ha
    refine ⟨fun hlow hhigh hlong => ?_, fun hrange => ?_, ?_⟩
    · obtain ⟨hramp, hrest⟩ := State.frame_modRamp (code := 0x18) (run := fun t => t.overrideCommand l ramp rate duration)
        ht (State.overrideCommand_written hn hv' hp' ha' (by omega))
      exact ⟨_, exec_overrideRate l ramp rate duration s, hramp, rfl, hrest⟩
    · exact ⟨_, exec_overrideRate l ramp rate duration s,
        State.frame_refused ht (State.overrideCommand_range hn hv' hp' ha' hrange)⟩
    · have hframe := State.frame_modRamp (code := 0x19) (run := fun t => t.endOverride l ramp) ht
        (State.endOverride_removed hn hv' hp' ha')
      exact ⟨_, exec_endOverride l ramp s, hframe⟩
  · rw [State.override_tick, ho, Option.map_some, Override.count_timed hk]
  · have hd : (s.ramp n).overrideDone = true := (s.ramp n).overrideDone_iff.2 ⟨o, k, ho, hk, hlast, hphase⟩
    have hm := State.modRamp_rampOnly s n fun r => { r with override := none }
    exact ⟨_, exec_overrideExpiry hr hd, State.ramp_modRamp_same s n _, State.modRamp_heads s n _,
      fun k => State.modRamp_link s n _ k, hm.1⟩

/-- Settles O38: the line is a field of its own, and both rows write it alone. -/
theorem takeoverLine : Obligations.TakeoverLine := fun _ => ⟨rfl, rfl⟩

end Sys2Proof.Machine
end

section
/-! SUPERVISION LAPSE (R130, R131). -/

namespace Sys2Proof.Machine

theorem exec_supervisionLapse {s : State} (hr : s.resetHeld = false) (l : Link) :
    exec (.supervisionLapse l) s = .next (s.tryLapse l) :=
  congrArg Host.Outcome.next (State.running_up hr)

theorem State.tryLapse_due {s : State} {l : Link} (h : (s.link l).lapseDue = true) : s.tryLapse l = s.lapse l := if_pos h

/-- The lapsed link is UNSUPERVISED with its timer at 0, and its notice is in its own set. -/
theorem State.lapse_link_same (s : State) (l : Link) : (s.lapse l).link l = { s.link l with
    supervised := false, supTimer := 0
    set := raiseInto .supervision (linkIndex l) .none true (s.link l).set } := by
  cases l <;> rfl

theorem State.lapse_link_other (s : State) {l k : Link} (h : k ≠ l) : (s.lapse l).link k = { s.link k with
    set := raiseInto .supervision (linkIndex l) .none true (s.link k).set } := by
  match l, k, h with
  | .loc, .centre, _ | .centre, .loc, _ => rfl
  | .loc, .loc, h | .centre, .centre, h => exact absurd rfl h

theorem State.lapse_heads (s : State) (l : Link) : (s.lapse l).heads = s.heads := by cases l <;> rfl

theorem State.lapse_chans (s : State) (l : Link) : (s.lapse l).chans = s.chans := by cases l <;> rfl

/-- Settles O59: a lapse that is due, record by record; one that is not changes nothing. -/
theorem supervisionLapses : Obligations.SupervisionLapses := by
  intro s l hr
  have hexec := exec_supervisionLapse hr l
  refine ⟨fun hsup hpos hreached => ?_, fun hnot => ?_⟩
  · rw [State.tryLapse_due ((s.link l).lapseDue_iff.2 ⟨hsup, hpos, hreached⟩)] at hexec
    exact ⟨_, hexec, s.lapse_link_same l, fun k hk => s.lapse_link_other hk, s.lapse_ramp l, s.lapse_zone l,
      s.lapse_heads l, s.lapse_chans l, s.lapse_rest l⟩
  · rwa [State.tryLapse_not (Bool.eq_false_iff.2 fun h => hnot ((s.link l).lapseDue_iff.1 h))] at hexec

end Sys2Proof.Machine
end

section
/-! The payloads of the catalogue read back (R135, R137, R141 to R146): words, lists with their count bytes, and each command. -/

namespace Sys2Proof.Machine

/-! ### Words, pairs and counts -/

@[simp] theorem wordOf_extract (w : Word) : wordOf (w.extractLsb' 8 8) (w.extractLsb' 0 8) = w := by
  exact (BitVec.extractLsb'_append_extractLsb'_eq_extractLsb' (by decide)).trans BitVec.extractLsb'_eq_self

@[simp] theorem pairsOf_pairBytes (l : List (Byte × Byte)) : pairsOf (pairBytes l) = some l := by
  induction l with
  | nil => rfl
  | cons p rest ih => simp [pairBytes, pairsOf, ih]

@[simp] theorem length_pairBytes (l : List (Byte × Byte)) : (pairBytes l).length = 2 * l.length := by
  induction l with
  | nil => rfl
  | cons p rest ih =>
    simp only [pairBytes, List.length_cons, ih]
    omega

/-- A count of at most 255 is what its byte says. -/
theorem toNat_count {n : Nat} (h : n ≤ 255) : (BitVec.ofNat 8 n).toNat = n := by
  rw [BitVec.toNat_ofNat]
  omega

/-! ### The commands with lists or sections -/

theorem decodeZoneDefine_written (l : Link) {a : ZoneDefineArgs} (hd : a.detectors.length ≤ 255)
    (hm : a.members.length ≤ 255) :
    decodeZoneDefine l (a.zone :: BitVec.ofNat 8 a.detectors.length :: (a.detectors ++ (wordBytes a.oc ++
      a.gz :: (wordBytes a.rmax ++ BitVec.ofNat 8 a.members.length :: pairBytes a.members)))) = some (.zoneDefine l a) := by
  simp [decodeZoneDefine, wordBytes, toNat_count hd, toNat_count hm]

theorem decodeZoneAmend_written (l : Link) {a : ZoneAmendArgs} (hw : a.weights.length ≤ 255)
    (ha : a.additions.length ≤ 255) :
    decodeZoneAmend l (a.zone :: (wordBytes a.oc ++ a.gz :: (wordBytes a.rmax ++ BitVec.ofNat 8 a.weights.length ::
      (pairBytes a.weights ++ BitVec.ofNat 8 a.additions.length :: pairBytes a.additions)))) = some (.zoneAmend l a) := by
  have split : 2 * a.weights.length = (pairBytes a.weights).length := (length_pairBytes _).symm
  simp only [decodeZoneAmend, wordBytes, List.cons_append, List.nil_append, toNat_count hw, split, List.take_left,
    List.drop_left, pairsOf_pairBytes, toNat_count ha, wordOf_extract]
  simp

theorem decodeKind_written (k : KindArgs) (rest : List Byte) : decodeKind (k.bytes ++ rest) = some (k, rest) := by
  simp [KindArgs.bytes, wordBytes, decodeKind]

theorem decodeCorridor_written (l : Link) (a : CorridorArgs) :
    decodeCorridor l (a.source :: a.length :: (a.kinds.cells.flatMap KindArgs.bytes ++
      [a.persistence, a.recovery, a.tolerance] ++ wordBytes a.localTime ++ wordBytes a.centreTime)) =
        some (.corridorSet l a) := by
  obtain ⟨source, length, ⟨cells, size⟩, p, r, tol, tl, tc⟩ := a
  match cells, size with
  | [k0, k1, k2, k3, k4], _ =>
    simp [decodeCorridor, decodeKind_written, wordBytes]

theorem sectionOf_cells (c : Table Byte 16) : sectionOf c.cells = some c := dif_pos c.size

theorem decodeAmend_written (l : Link) (ramp : Byte) (c : Table Byte 16) (target : Byte) :
    decodeAmend l (ramp :: (c.cells ++ [target])) = some (.amend l ramp c target) := by
  have ht : (c.cells ++ [target]).take 16 = c.cells := List.take_left' c.size
  have hd : (c.cells ++ [target]).drop 16 = [target] := List.drop_left' c.size
  simp [decodeAmend, ht, hd, sectionOf_cells]

theorem decodeStageWrite_written (l : Link) (sect : Byte) (c : Table Byte 16) :
    decodeStageWrite l (sect :: c.cells) = some (.stageWrite l sect c) := by
  simp [decodeStageWrite, sectionOf_cells]

theorem decodeMask_written (l : Link) {kinds : List Byte} (h : kinds.length ≤ 255) :
    decodeMask l (BitVec.ofNat 8 kinds.length :: kinds) = some (.noticeMask l kinds) := by
  simp [decodeMask, toNat_count h]

/-! ### Every command -/

/-- A payload of a frame's length that spells the command on its link. -/
structure Spells (payload : List Byte) (i : Instr) : Prop where
  least : 2 ≤ payload.length
  most : payload.length ≤ 250
  reads : decodePayload i.linkOf payload = .command i

theorem fitsFrame_iff (n : Nat) : fitsFrame n = true ↔ n ≤ 250 := by simp [fitsFrame]

theorem spells_zoneDefine {l : Link} {a : ZoneDefineArgs} {payload : List Byte}
    (fits : WellFormed (.zoneDefine l a) = true) (e : encodePayload (.zoneDefine l a) = some payload) :
    Spells payload (.zoneDefine l a) := by
  replace fits := (fitsFrame_iff _).1 fits
  have reads := decodeZoneDefine_written l (a := a) (by omega) (by omega)
  simp only [encodePayload, Option.some.injEq, List.cons_append, List.append_assoc] at e
  subst e
  refine ⟨by simp, ?_, congrArg Payload.ofOption reads⟩
  simp [wordBytes]
  omega

theorem spells_zoneAmend {l : Link} {a : ZoneAmendArgs} {payload : List Byte}
    (fits : WellFormed (.zoneAmend l a) = true) (e : encodePayload (.zoneAmend l a) = some payload) :
    Spells payload (.zoneAmend l a) := by
  replace fits := (fitsFrame_iff _).1 fits
  have reads := decodeZoneAmend_written l (a := a) (by omega) (by omega)
  simp only [encodePayload, Option.some.injEq, List.cons_append, List.append_assoc] at e
  subst e
  refine ⟨by simp, ?_, congrArg Payload.ofOption reads⟩
  simp [wordBytes]
  omega

theorem spells_noticeMask {l : Link} {kinds payload : List Byte}
    (fits : WellFormed (.noticeMask l kinds) = true) (e : encodePayload (.noticeMask l kinds) = some payload) :
    Spells payload (.noticeMask l kinds) := by
  replace fits := (fitsFrame_iff _).1 fits
  cases e
  refine ⟨by simp, ?_, congrArg Payload.ofOption (decodeMask_written l (by omega))⟩
  simp only [List.length_cons]
  omega

theorem length_kinds (c : Table KindArgs 5) : (c.cells.flatMap KindArgs.bytes).length = 25 := by
  obtain ⟨cells, size⟩ := c
  match cells, size with
  | [_, _, _, _, _], _ => rfl

theorem spells_corridorSet {l : Link} {a : CorridorArgs} {payload : List Byte}
    (e : encodePayload (.corridorSet l a) = some payload) : Spells payload (.corridorSet l a) := by
  cases e
  refine ⟨?_, ?_, congrArg Payload.ofOption (decodeCorridor_written l a)⟩ <;>
    simp only [List.length_cons, List.length_append, length_kinds, wordBytes] <;> decide

theorem spells_amend {l : Link} {ramp target : Byte} {c : Table Byte 16} {payload : List Byte}
    (e : encodePayload (.amend l ramp c target) = some payload) : Spells payload (.amend l ramp c target) := by
  cases e
  refine ⟨?_, ?_, congrArg Payload.ofOption (decodeAmend_written l ramp c target)⟩ <;> simp [c.size]

theorem spells_stageWrite {l : Link} {sect : Byte} {c : Table Byte 16} {payload : List Byte}
    (e : encodePayload (.stageWrite l sect c) = some payload) : Spells payload (.stageWrite l sect c) := by
  cases e
  refine ⟨?_, ?_, congrArg Payload.ofOption (decodeStageWrite_written l sect c)⟩ <;> simp [c.size]

/-- The payload that the catalogue gives a command spells it: a list is read by its count byte, a section by its sixteen bytes, and
an operand of 0xFF belongs to the row with ALL. -/
theorem spells_of_encode {i : Instr} {payload : List Byte} (fits : WellFormed i = true)
    (e : encodePayload i = some payload) : Spells payload i := by
  cases i
  case zoneDefine => exact spells_zoneDefine fits e
  case zoneAmend => exact spells_zoneAmend fits e
  case noticeMask => exact spells_noticeMask fits e
  case corridorSet => exact spells_corridorSet e
  case amend => exact spells_amend e
  case stageWrite => exact spells_stageWrite e
  case takeAuthority | yieldAuthority | noticeClear =>
    have one : ¬ _ = (0xFF : Byte) := bne_iff_ne.1 fits
    cases e
    exact ⟨by simp, by simp, congrArg Payload.command (if_neg one)⟩
  case overrideRate l ramp rate duration =>
    cases e
    have reads : decodeOverride l (ramp :: wordBytes rate ++ wordBytes duration) =
        .command (.overrideRate l ramp rate duration) := by simp [wordBytes, decodeOverride]
    exact ⟨by simp [wordBytes], by simp [wordBytes], reads⟩
  case commission | replacePlan | retire | openRamp | closeRamp | clearLockout | endOverride | takeAuthorityAll |
      yieldAuthorityAll | lookupRampStatus | lookupRampPlan | lookupChannel | lookupChannelSummary | lookupZone |
      lookupBulletinEntry | lookupSlotDirectory | lookupCorridorSettings | lookupLinkStatus | lookupRestoreReport |
      zoneDissolve | stageClear | stageFromRamp | storeSlot | fetchSlot | eraseSlot | protectSlot | unprotectSlot |
      noticeQuery | noticeClearAll | restart =>
    cases e
    exact ⟨by simp, by simp, rfl⟩
  all_goals cases e

/-- Settles O6: a well-formed command's payload spells it, case by case above. -/
theorem payloadRoundTrip : Obligations.PayloadRoundTrip := fun _ _ fits e =>
  have spells := spells_of_encode fits e
  ⟨spells.least, spells.most, spells.reads⟩

end Sys2Proof.Machine
end

section
/-! Bytes, frames and the LIF's own answers on a link (R135 to R139, R142, R146): what a byte does to the receive frame, what the byte
that completes the check brings, and a command's frame sent byte by byte. -/

namespace Sys2Proof.Machine

/-! ### One link alone -/

theorem State.setLink_alone (s : State) (l : Link) (c : LinkCtx) :
    (s.setLink l c).link l = c ∧ (∀ k, k ≠ l → (s.setLink l c).link k = s.link k) ∧ OnlyLinks s (s.setLink l c) :=
  ⟨s.link_setLink_same l c, fun _ ne => s.link_setLink_other c ne, s.setLink_onlyLinks l c⟩

@[simp] theorem State.setLink_setLink (s : State) (l : Link) (c d : LinkCtx) : (s.setLink l c).setLink l d = s.setLink l d := by
  cases l <;> rfl

/-! ### A byte at the receive frame (R135) -/

theorem RxFrame.take_noise {b : Byte} (h : b ≠ 0xC3) : RxFrame.absent.take b = .frame .absent := if_neg h

theorem RxFrame.take_length (b : Byte) : (RxFrame.assembling []).take b =
    .frame (if 2 ≤ b.toNat ∧ b.toNat ≤ 250 then .assembling [b] else .void) :=
  (apply_ite ByteEffect.frame _ _ _).symm

theorem RxFrame.take_inside {len b : Byte} {rest : List Byte} (h : rest.length + 1 < len.toNat + 2) :
    (RxFrame.assembling (len :: rest)).take b = .frame (.assembling (len :: rest ++ [b])) :=
  if_neg (by simp only [List.length_append, List.length_cons, List.length_nil]; omega)

theorem RxFrame.take_last {len hi : Byte} {payload : List Byte} (h : payload.length = len.toNat) (b : Byte) :
    (RxFrame.assembling (len :: payload ++ [hi])).take b = .complete (len :: payload) (wordOf hi b) := by
  simp [RxFrame.take, assemble, ← h]

theorem LinkCtx.receive_begin (c : LinkCtx) (bytes : List Byte) : c.receive (.assembling bytes) = { c with
    rx := .assembling bytes, gap := 0, linkState := if c.linkState = .idle then .receiving else c.linkState } := by
  simp [LinkCtx.receive]

theorem LinkCtx.receive_absent (c : LinkCtx) : c.receive .absent = { c with rx := .absent, gap := 0 } := by
  simp [LinkCtx.receive]

theorem LinkCtx.receive_open {c : LinkCtx} (h : c.linkState ≠ .idle) (rx : RxFrame) :
    c.receive rx = { c with rx := rx, gap := 0 } := by simp [LinkCtx.receive, h]

theorem exec_byteReceived_frame {s : State} {l : Link} {b : Byte} {rx : RxFrame} (hr : s.resetHeld = false)
    (h : (s.link l).rx.take b = .frame rx) :
    exec (.byteReceived l b) s = .next (s.setLink l ((s.link l).receive rx)) := by
  change execByteReceived l b s = _
  simp [execByteReceived, hr, h]

theorem exec_byteReceived_last {s : State} {l : Link} {len hi : Byte} {payload : List Byte} (hr : s.resetHeld = false)
    (h : (s.link l).rx = .assembling (len :: payload ++ [hi])) (hl : payload.length = len.toNat) (b : Byte) :
    exec (.byteReceived l b) s = completeFrame l (len :: payload) (wordOf hi b) s := by
  change execByteReceived l b s = _
  simp only [execByteReceived, hr, h, RxFrame.take_last hl]
  rfl

/-! ### The byte that completes the check (R136 to R138, R142) -/

theorem State.failCheck_alone {s : State} {l : Link} (h : (s.link l).busy = false) (code : Byte) :
    (s.failCheck l code).link l = { s.link l with
      linkState := .replying, rx := .absent, gap := 0, overrun := false
      response := some ⟨.check,
        ⟨(s.link l).noticePending, (s.link l).overrun, (s.link l).supervised, s.takeover, s.permit⟩, code, []⟩ } ∧
    (∀ k, k ≠ l → (s.failCheck l code).link k = s.link k) ∧ OnlyLinks s (s.failCheck l code) := by
  have e : s.failCheck l code = s.setLink l { s.link l with
      linkState := .replying, rx := .absent, gap := 0, overrun := false
      response := some ⟨.check,
        ⟨(s.link l).noticePending, (s.link l).overrun, (s.link l).supervised, s.takeover, s.permit⟩, code, []⟩ } := by
    simp [State.failCheck, h, State.respond, State.flagsFor, Reply.refuse, LinkCtx.noticePending, LinkCtx.shows]
  rw [e]
  exact s.setLink_alone l _

theorem completeFrame_busy {s : State} {l : Link} (h : (s.link l).busy = true) (body : List Byte) (check : Word) :
    completeFrame l body check s = .next (s.overrunFrame l) := if_pos h

theorem completeFrame_bad {s : State} {l : Link} (h : (s.link l).busy = false) {body : List Byte} {check : Word}
    (bad : crc16 body ≠ check) : completeFrame l body check s = .next (s.failCheck l (body.tail.headD 0)) := by
  simp [completeFrame, h, bad]

theorem completeFrame_good {s : State} {l : Link} (h : (s.link l).busy = false) {body : List Byte} {check : Word}
    (good : crc16 body = check) : completeFrame l body check s = takePayload l body.tail s := by
  simp [completeFrame, h, good]

/-- A payload is read as a command of the catalogue when it is read as a command. -/
def inCatalogue (p : Payload) : Bool :=
  match p with
  | .command i => (encodePayload i).isSome
  | .badGroup => true
  | .badShape => true

theorem inCatalogue_one {f : Byte → Instr} (h : ∀ a, (encodePayload (f a)).isSome = true) (args : List Byte) :
    inCatalogue (decodeOne f args) = true := by
  unfold decodeOne
  split
  · exact h _
  · rfl

theorem inCatalogue_three {f : Byte → Byte → Byte → Instr} (h : ∀ a b c, (encodePayload (f a b c)).isSome = true)
    (args : List Byte) : inCatalogue (decodeThree f args) = true := by
  unfold decodeThree
  split
  · exact h _ _ _
  · rfl

theorem inCatalogue_override (l : Link) (args : List Byte) : inCatalogue (decodeOverride l args) = true := by
  unfold decodeOverride
  split <;> rfl

theorem inCatalogue_lookup (l : Link) (group index : Byte) : inCatalogue (decodeLookup l group index) = true := by
  unfold decodeLookup
  split <;> rfl

theorem inCatalogue_amend (l : Link) (args : List Byte) : inCatalogue (.ofOption (decodeAmend l args)) = true := by
  unfold decodeAmend
  repeat' split
  all_goals rfl

theorem inCatalogue_zoneDefine (l : Link) (args : List Byte) :
    inCatalogue (.ofOption (decodeZoneDefine l args)) = true := by
  unfold decodeZoneDefine
  repeat' split
  all_goals rfl

theorem inCatalogue_zoneAmend (l : Link) (args : List Byte) : inCatalogue (.ofOption (decodeZoneAmend l args)) = true := by
  unfold decodeZoneAmend
  repeat' split
  all_goals rfl

theorem inCatalogue_bind {α : Type} {o : Option α} {f : α → Option Instr} (h : ∀ a, inCatalogue (.ofOption (f a)) = true) :
    inCatalogue (.ofOption (o.bind f)) = true := by
  cases o with
  | none => rfl
  | some a => exact h a

theorem inCatalogue_corridor (l : Link) (args : List Byte) : inCatalogue (.ofOption (decodeCorridor l args)) = true := by
  unfold decodeCorridor
  split
  · refine inCatalogue_bind fun _ => inCatalogue_bind fun _ => inCatalogue_bind fun _ => inCatalogue_bind fun _ =>
      inCatalogue_bind fun _ => ?_
    repeat' split
    all_goals rfl
  · rfl

theorem inCatalogue_stageWrite (l : Link) (args : List Byte) :
    inCatalogue (.ofOption (decodeStageWrite l args)) = true := by
  unfold decodeStageWrite sectionOf
  repeat' split
  all_goals rfl

theorem inCatalogue_mask (l : Link) (args : List Byte) : inCatalogue (.ofOption (decodeMask l args)) = true := by
  unfold decodeMask
  repeat' split
  all_goals rfl

theorem inCatalogue_decodeArgs (l : Link) (code : Nat) (args : List Byte) : inCatalogue (decodeArgs l code args) = true := by
  unfold decodeArgs
  split
  case h_1 =>
    split
    · exact inCatalogue_lookup l _ _
    · rfl
  case h_2 | h_3 => exact inCatalogue_three (fun _ _ _ => rfl) args
  case h_4 => exact inCatalogue_amend l args
  case h_9 => exact inCatalogue_override l args
  case h_11 | h_12 => exact inCatalogue_one (fun r => by split <;> rfl) args
  case h_13 => exact inCatalogue_zoneDefine l args
  case h_14 => exact inCatalogue_zoneAmend l args
  case h_16 => exact inCatalogue_corridor l args
  case h_18 => exact inCatalogue_stageWrite l args
  case h_27 =>
    split
    · simp only [inCatalogue]
      split <;> rfl
    · rfl
  case h_28 => exact inCatalogue_mask l args
  case h_29 => rfl
  all_goals exact inCatalogue_one (fun _ => rfl) args

/-- The command that a payload spells has the meaning of its row. -/
theorem runCommand_of_decode {l : Link} {payload : List Byte} {i : Instr} (h : decodePayload l payload = .command i)
    (s : State) : runCommand i s = exec i s := by
  have written : (encodePayload i).isSome = true := by
    cases payload with
    | nil => cases h
    | cons code args =>
      have := inCatalogue_decodeArgs l code.toNat args
      rwa [show decodeArgs l code.toNat args = .command i from h] at this
  cases i
  all_goals cases written
  all_goals rfl

theorem decodePayload_badGroup (l : Link) {g : Byte} (x : Byte) (h : g = 0 ∨ 10 < g.toNat) :
    decodePayload l [0x10, g, x] = .badGroup := by
  change decodeLookup l g x = .badGroup
  unfold decodeLookup
  split
  case h_11 => rfl
  all_goals
    next e =>
      rcases h with rfl | h
      · cases e
      · omega

section
variable {s : State} {l : Link} {len hi b : Byte} {payload : List Byte}

/-- The last byte of a good frame has the payload taken. -/
theorem exec_byteReceived_good (ht : s.takes l) (h : (s.link l).rx = .assembling (len :: payload ++ [hi]))
    (hl : payload.length = len.toNat) (good : crc16 (len :: payload) = wordOf hi b) :
    exec (.byteReceived l b) s = takePayload l payload s :=
  (exec_byteReceived_last ht.1 h hl b).trans (completeFrame_good ht.2 good)

theorem takePayload_command {i : Instr} (h : decodePayload l payload = .command i) (s : State) :
    takePayload l payload s = exec i s := by
  simp only [takePayload, h, runCommand_of_decode h]

theorem takePayload_badShape (h : decodePayload l payload = .badShape) (s : State) :
    takePayload l payload s = exec (.unknownCommand l (payload.headD 0)) s := by
  simp only [takePayload, h]
  rfl

theorem takePayload_badGroup (h : decodePayload l payload = .badGroup) (s : State) :
    takePayload l payload s = .next (s.badGroup l) := by
  simp only [takePayload, h]

end

/-- Settles O54: the receive frame takes the byte, or the check is complete and the payload is taken. -/
theorem bytesTaken : Obligations.BytesTaken := by
  intro s l b hr
  refine ⟨fun hrx hb => ?_, fun hrx hb => ?_, fun hrx hidle => ?_, fun len rest hrx hlt hidle => ?_, fun hrx hidle => ?_,
    fun len payload hi hrx hlen => ⟨fun hbusy => ?_, fun hbusy bad => ?_, fun hbusy good => ?_⟩⟩
  · have he := exec_byteReceived_frame (b := b) hr (by rw [hrx, hb]; rfl : (s.link l).rx.take b = .frame (.assembling []))
    rw [LinkCtx.receive_begin] at he
    exact ⟨_, he, s.setLink_alone l _⟩
  · have he := exec_byteReceived_frame (b := b) hr (by rw [hrx]; exact RxFrame.take_noise hb)
    rw [LinkCtx.receive_absent, ← hrx] at he
    exact ⟨_, he, s.setLink_alone l _⟩
  · have he := exec_byteReceived_frame hr (hrx ▸ RxFrame.take_length b)
    rw [LinkCtx.receive_open hidle] at he
    exact ⟨_, he, s.setLink_alone l _⟩
  · have he := exec_byteReceived_frame hr (hrx ▸ RxFrame.take_inside (b := b) hlt)
    rw [LinkCtx.receive_open hidle] at he
    exact ⟨_, he, s.setLink_alone l _⟩
  · have he := exec_byteReceived_frame (b := b) hr (by rw [hrx]; rfl : (s.link l).rx.take b = .frame .void)
    rw [LinkCtx.receive_open hidle, ← hrx] at he
    exact ⟨_, he, s.setLink_alone l _⟩
  · have he := (exec_byteReceived_last hr hrx hlen b).trans (completeFrame_busy hbusy _ _)
    exact ⟨_, he, s.setLink_alone l _⟩
  · have he := (exec_byteReceived_last hr hrx hlen b).trans (completeFrame_bad hbusy bad)
    exact ⟨_, he, State.failCheck_alone hbusy _⟩
  · have he := exec_byteReceived_good ⟨hr, hbusy⟩ hrx hlen good
    refine ⟨fun i hi => he.trans (takePayload_command hi s), fun hi => ?_, fun g x hp hg => ?_⟩
    · exact ⟨_, he.trans (takePayload_badShape hi s), State.frame_refused ⟨hr, hbusy⟩ rfl⟩
    · subst hp
      exact ⟨_, he.trans (takePayload_badGroup (decodePayload_badGroup l x hg) s), State.frame_refused ⟨hr, hbusy⟩ rfl⟩

/-! ### The LIF's own rows (R135 to R139, R146) -/

/-- Settles O53: each row is taken or refused by the LIF itself, and moves its own link alone but for the mark of a RESTART. -/
theorem linkEventsTaken : Obligations.LinkEventsTaken := by
  intro s l b
  refine ⟨fun ht => ?_, fun ht => ⟨_, rfl, State.frame_refused ht rfl⟩, fun ht => ⟨_, rfl, State.frame_refused ht rfl⟩,
    fun ht => ?_, fun hr hbusy => ?_, fun hr hrx hgap => ?_⟩
  · refine ⟨_, rfl, ?_⟩
    rw [State.frame_eq ht rfl]
    exact ⟨by simp, answered_of_setsOnly (fun k => by cases k <;> rfl) _ _,
      noNotice_of_sets (fun k => by cases k <;> rfl) _ _, by simp⟩
  · obtain ⟨self, others, only⟩ := State.failCheck_alone ht.2 b
    exact ⟨_, congrArg Host.Outcome.next (State.running_up ht.1), only, others, self⟩
  · have he : s.running (fun t => if (t.link l).busy then t.overrunFrame l else t) = s.overrunFrame l :=
      (State.running_up hr).trans (if_pos hbusy)
    exact ⟨_, congrArg Host.Outcome.next he, s.setLink_alone l _⟩
  · have run : (s.link l).gapRun = true := by simp [LinkCtx.gapRun, hrx, hgap]
    have he : s.running (fun t => if (t.link l).gapRun then t.setLink l (t.link l).drop else t) =
        s.setLink l (s.link l).drop := (State.running_up hr).trans (if_pos run)
    exact ⟨_, congrArg Host.Outcome.next he, s.setLink_alone l _⟩

/-! ### A frame sent byte by byte on an idle link (R135 to R137) -/

/-- One more byte received on a link. -/
def feed (l : Link) (o : Host.Outcome State Fault Refusal) (b : Byte) : Host.Outcome State Fault Refusal :=
  match o with
  | .next t => exec (.byteReceived l b) t
  | .fault f => .fault f
  | .refused r => .refused r

/-- The state in which a link is RECEIVING, these bytes taken since the start byte. -/
def State.begun (s : State) (l : Link) (bytes : List Byte) : State :=
  s.setLink l { s.link l with linkState := .receiving, rx := .assembling bytes, gap := 0 }

theorem State.link_begun (s : State) (l : Link) (bytes : List Byte) : (s.begun l bytes).link l =
    { s.link l with linkState := .receiving, rx := .assembling bytes, gap := 0 } := s.link_setLink_same l _

theorem State.begun_takes {s : State} (hr : s.resetHeld = false) (l : Link) (bytes : List Byte) :
    (s.begun l bytes).takes l := by
  simp [State.takes, State.begun, hr, LinkCtx.busy]

theorem State.receive_begun (s : State) (l : Link) (bytes more : List Byte) :
    (s.begun l bytes).setLink l (((s.begun l bytes).link l).receive (.assembling more)) = s.begun l more := by
  simp [LinkCtx.receive_begin, State.begun]

/-- The bytes taken by a receive frame leave no trace in the state that the good frame makes. -/
theorem State.goodFrame_begun (s : State) (l : Link) (bytes : List Byte) :
    (s.begun l bytes).goodFrame l = s.goodFrame l := by
  simp [State.goodFrame, State.begun]

theorem State.frame_begun {s : State} {l : Link} (h : s.takes l) (bytes : List Byte) (code : Byte)
    (run : State → State × Reply) : (s.begun l bytes).frame l code run = s.frame l code run := by
  rw [State.frame_takes h, State.frame_takes (State.begun_takes h.1 l bytes), State.goodFrame_begun]

/-- A command of the catalogue is a frame on its link. -/
theorem exec_of_encode {i : Instr} {payload : List Byte} (e : encodePayload i = some payload) :
    ∃ code run, ∀ s, exec i s = .next (s.frame i.linkOf code run) := by
  cases i
  all_goals cases e
  all_goals exact ⟨_, _, fun _ => rfl⟩

section
variable {s : State} {l : Link} (hr : s.resetHeld = false)
include hr

theorem feed_start (hidle : (s.link l).linkState = .idle) (hrx : (s.link l).rx = .absent) :
    feed l (.next s) 0xC3 = .next (s.begun l []) := by
  have he := exec_byteReceived_frame (l := l) (b := 0xC3) hr (by rw [hrx]; rfl)
  rw [LinkCtx.receive_begin, if_pos hidle] at he
  exact he

theorem feed_begun {bytes more : List Byte} {b : Byte} (h : (RxFrame.assembling bytes).take b = .frame (.assembling more)) :
    feed l (.next (s.begun l bytes)) b = .next (s.begun l more) := by
  have he := exec_byteReceived_frame (State.begun_takes hr l bytes).1 (l := l) (by rw [State.link_begun]; exact h)
  rw [s.receive_begun l bytes more] at he
  exact he

theorem foldl_feed_inside {len : Byte} (bytes taken : List Byte) (h : taken.length + bytes.length ≤ len.toNat + 1) :
    bytes.foldl (feed l) (.next (s.begun l (len :: taken))) = .next (s.begun l (len :: taken ++ bytes)) := by
  induction bytes generalizing taken with
  | nil => simp
  | cons b rest ih =>
    rw [List.length_cons] at h
    rw [List.foldl_cons, feed_begun hr (RxFrame.take_inside (by omega))]
    have := ih (taken ++ [b]) (by simp; omega)
    simpa using this

/-- The start byte, the length byte, the payload and the check's first byte leave the link RECEIVING with all of them taken. -/
theorem foldl_feed_begun {len hi : Byte} {payload : List Byte} (hidle : (s.link l).linkState = .idle)
    (hrx : (s.link l).rx = .absent) (count : len.toNat = payload.length) (least : 2 ≤ payload.length)
    (most : payload.length ≤ 250) :
    (0xC3 :: len :: (payload ++ [hi])).foldl (feed l) (.next s) = .next (s.begun l (len :: payload ++ [hi])) := by
  have length := RxFrame.take_length len
  rw [if_pos ⟨count ▸ least, count ▸ most⟩] at length
  rw [List.foldl_cons, feed_start hr hidle hrx, List.foldl_cons, feed_begun hr length]
  exact foldl_feed_inside hr (payload ++ [hi]) [] (by simp [count])

end

/-- Settles O7: the last byte takes the payload, which spells the command, and the good frame's state does not see the bytes
taken. -/
theorem frameRunsCommand : Obligations.FrameRunsCommand := by
  intro i payload s fits e hr hidle hrx
  have spells := spells_of_encode fits e
  have count := toNat_count (Nat.le_trans spells.most (by decide))
  obtain ⟨len, hlen⟩ : ∃ len : Byte, len = BitVec.ofNat 8 payload.length := ⟨_, rfl⟩
  rw [← hlen] at count
  obtain ⟨hi, lo, bytes, good⟩ : ∃ hi lo : Byte, wordBytes (crc16 (len :: payload)) = [hi, lo] ∧
    crc16 (len :: payload) = wordOf hi lo := ⟨_, _, rfl, (wordOf_extract _).symm⟩
  have shape : frameOf payload = (0xC3 :: len :: (payload ++ [hi])) ++ [lo] := by simp [frameOf, ← hlen, bytes]
  have last : exec (.byteReceived i.linkOf lo) (s.begun i.linkOf (len :: payload ++ [hi])) =
      exec i (s.begun i.linkOf (len :: payload ++ [hi])) :=
    (exec_byteReceived_good (State.begun_takes hr _ _) (congrArg LinkCtx.rx (s.link_begun _ _)) count.symm good).trans
      (takePayload_command spells.reads _)
  obtain ⟨code, run, meaning⟩ := exec_of_encode e
  calc (frameOf payload).foldl (feed i.linkOf) (.next s)
      = exec (.byteReceived i.linkOf lo) (s.begun i.linkOf (len :: payload ++ [hi])) := by
        rw [shape, List.foldl_append, foldl_feed_begun hr hidle hrx count spells.least spells.most]
        rfl
    _ = exec i (s.begun i.linkOf (len :: payload ++ [hi])) := last
    _ = exec i s := by
        rw [meaning, meaning, State.frame_begun ⟨hr, by simp [LinkCtx.busy, hidle]⟩]

end Sys2Proof.Machine
end

section
/-! HARD RESET (R147) and the end of a response, with the RESTART it may bring (R137, R146): the records, the links and what is kept. -/

namespace Sys2Proof.Machine

/-! ### The records that both resets leave (R22, R60, R95, R121) -/

theorem State.zone_resetRecords (s : State) (z : ZoneNo) : s.resetRecords.zone z = Zone.vacantRecord := Table.get_fill _ _

theorem State.chan_resetRecords (s : State) (c : Chan) : s.resetRecords.chan c = (s.chan c).reset := Table.get_map _ _ _

theorem State.head_reset (s : State) (h : HeadNo) : s.resetRecords.head h = (s.head h).reset := Table.get_map _ _ _

/-! ### HARD RESET (R147) -/

theorem exec_hardReset_up {s : State} (h : s.resetHeld = false) : exec .hardReset s = .next s.hardReset :=
  congrArg Host.Outcome.next (if_neg (by simp [h]))

theorem State.link_hardReset (s : State) (l : Link) : s.hardReset.link l =
    LinkCtx.hardReset (match l with
      | .loc => 0
      | .centre => 90) := by cases l <;> rfl

/-- While RESET is low no lamp is driven, no beacon lit, and the NOTICE line is inactive (R23, R109, R154). -/
theorem State.outputs_held {s : State} (h : s.resetHeld = true) :
    (∀ g, s.redDrive g = false ∧ s.greenDrive g = false) ∧ (∀ n, s.beacon n = false) ∧ s.noticeLine = false := by
  simp [State.redDrive, State.greenDrive, State.beacon, State.noticeLine, h]

/-- Settles O12: the records and links at their reset values; the rest of the state stands, and RESET is held. -/
theorem hardResetTaken : Obligations.HardResetTaken := by
  intro s hr
  refine ⟨s.hardReset, exec_hardReset_up hr, rfl, s.ramp_resetRecords, s.zone_resetRecords, s.chan_resetRecords,
    s.head_reset, fun l => ?_, rfl, rfl, rfl, rfl, rfl, rfl, fun _ => Table.get_fill _ _, rfl, rfl, rfl, rfl, rfl, rfl, rfl,
    rfl, rfl, rfl, rfl, rfl, rfl, State.outputs_held rfl⟩
  rw [s.link_hardReset l]
  exact ⟨rfl, rfl, rfl, rfl, rfl, rfl, rfl, fun _ => Table.get_fill _ _⟩

/-! ### RESTART (R146) -/

theorem exec_responseSent {s : State} (h : s.resetHeld = false) (l : Link) :
    exec (.responseSent l) s = .next (s.responseSent l) := congrArg Host.Outcome.next (State.running_up h)

/-- A link whose response ends with no RESTART to take. -/
theorem State.responseSent_plain {s : State} {l : Link} (h : (s.link l).linkState = .replying)
    (hp : ¬ (l = .loc ∧ s.restartPending = true)) : s.responseSent l = s.setLink l (s.link l).afterResponse := by
  simp [State.responseSent, h, hp]

/-- The state that a RESTART leaves but for the scan and the PERMIT notice: the records reset, the inputs read. -/
def State.restarted (s : State) : State :=
  ({ s.resetRecords with
    loc := s.loc.restart
    centre := s.centre.restart
    settings := s.pendSettings.getD s.settings
    pendSettings := none } : State).readInputs

theorem State.restart_eq (s : State) : s.restart = s.restarted.scanAfterRestart.permitNotice := rfl

/-- Of the state only the scan and its report differ once a RESTART has set the scan. -/
theorem State.scanAfterRestart_form (s : State) : s.scanAfterRestart =
    { s with scan := s.scanAfterRestart.scan, report := s.scanAfterRestart.report } := by
  unfold State.scanAfterRestart
  split <;> rfl

theorem State.scanAfterRestart_now {s : State} (h : s.store = none) : s.scanAfterRestart = s.beginScan := by
  simp [State.scanAfterRestart, h]

theorem State.scanAfterRestart_later {s : State} (h : s.store ≠ none) : s.scanAfterRestart.scan = .afterStore := by
  unfold State.scanAfterRestart
  split
  · next e => exact absurd e h
  · rfl

/-- Beside the scan and its report, a RESTART moves the two links alone after the records are reset. -/
theorem State.restart_onlyLinks (s : State) : OnlyLinks
    { s.restarted with
      scan := s.restarted.scanAfterRestart.scan, report := s.restarted.scanAfterRestart.report } s.restart :=
  (congrArg (OnlyLinks · s.restart) s.restarted.scanAfterRestart_form).mp (State.permitNotice_onlyLinks _)

theorem State.ramp_restart (s : State) (n : RampNo) : s.restart.ramp n = Ramp.vacantRecord :=
  (congrArg (Table.get · n) s.restart_onlyLinks.ramps).trans (s.ramp_resetRecords n)

theorem State.zone_restart (s : State) (z : ZoneNo) : s.restart.zone z = Zone.vacantRecord :=
  (congrArg (Table.get · z) s.restart_onlyLinks.zones).trans (s.zone_resetRecords z)

theorem State.chan_restart (s : State) (c : Chan) :
    s.restart.chan c = { Channel.resetRecord with pin := (s.chan c).pin, presence := (s.chan c).pin } := by
  have read : s.restarted.chan c = { s.resetRecords.chan c with presence := (s.resetRecords.chan c).pin } :=
    State.chan_readInputs _ c
  rw [State.chan_resetRecords] at read
  exact (congrArg (Table.get · c) s.restart_onlyLinks.chans).trans read

theorem State.head_restart (s : State) (h : HeadNo) : s.restart.head h = { Head.resetContext with
    redPin := (s.head h).redPin, greenPin := (s.head h).greenPin
    redProved := (s.head h).redPin, greenProved := (s.head h).greenPin } := by
  have read : s.restarted.head h = { s.resetRecords.head h with
      redProved := (s.resetRecords.head h).redPin, greenProved := (s.resetRecords.head h).greenPin } :=
    State.head_readInputs _ h
  rw [State.head_reset] at read
  exact (congrArg (Table.get · h) s.restart_onlyLinks.heads).trans read

theorem State.link_scanAfterRestart (s : State) (l : Link) : s.scanAfterRestart.link l = s.link l := by
  rw [s.scanAfterRestart_form]
  cases l <;> rfl

theorem State.link_restarted (s : State) (l : Link) : s.restarted.link l = (s.link l).restart := by cases l <;> rfl

/-- Each link IDLE, its pending set empty but for the PERMIT notice when PERMIT is absent; masks and supervision kept (R40, R134,
R146, R155). -/
theorem State.link_restart (s : State) (l : Link) : s.restart.link l = { s.link l with
    linkState := .idle, rx := .absent, gap := 0, overrun := false, response := none
    set := if s.permit then [] else [⟨.permit, 0, false, true, .none⟩] } := by
  have before : s.restarted.scanAfterRestart.link l = (s.link l).restart :=
    (State.link_scanAfterRestart _ l).trans (s.link_restarted l)
  have permit : s.restarted.scanAfterRestart.permit = s.permit := by rw [State.scanAfterRestart_form]; rfl
  have set := State.set_permitNotice s.restarted.scanAfterRestart l
  rw [before, permit] at set
  rw [s.restart_eq, State.permitNotice_setsOnly _ l, set, before]
  rfl

/-- Settles O14: the link alone moves, or on the local link the RESTART answered is taken. -/
theorem responseSentTaken : Obligations.ResponseSentTaken := by
  intro s l hr hl
  refine ⟨fun hp => ?_, fun e hp => ?_⟩
  · refine ⟨_, exec_responseSent hr l, ?_⟩
    rw [State.responseSent_plain hl hp]
    exact s.setLink_alone l _
  · subst e
    have ho := s.restart_onlyLinks
    refine ⟨s.restart, exec_responseSent_restart hr hl hp, s.ramp_restart, s.zone_restart, s.chan_restart, s.head_restart,
      s.link_restart, ho.settings, ho.pendSettings, ho.winNum, ho.elapsed, ho.lastClosed, ho.bulletin, ho.transit,
      ho.restartPending, ho.stage, ho.slots, ho.store, ho.count, ho.permit, ho.takeover, ho.pending,
      ho.resetHeld.trans hr, fun none => ?_, fun busy => ?_⟩
    · have now : s.restarted.scanAfterRestart = s.restarted.beginScan := State.scanAfterRestart_now none
      refine ⟨ho.scan.trans (congrArg State.scan now), fun k => ?_⟩
      have report : s.restart.report = s.restarted.scanAfterRestart.report := ho.report
      rw [report, now]
      exact Table.get_fill _ _
    · exact ho.scan.trans (State.scanAfterRestart_later (s := s.restarted) busy)

end Sys2Proof.Machine
end

section
/-! LOOKUP (R142): the bytes of each group field by field (R2, R59, R94, R108, R148, R157, R162), and the answer of each row. -/

namespace Sys2Proof.Machine

/-! ### The image of a plan (R148) -/

theorem Timing.cells_eq (t : Timing) : t.bytes.cells = [byteOf t.green, byteOf t.minRed] ++ twoBytes t.warn ++
    twoBytes t.startRed ++ twoBytes t.closeGreen ++ List.replicate 8 0 := rfl

theorem Control.cells_eq (c : Control) : c.bytes.cells = twoBytes c.target ++ [byteOf c.gain] ++ twoBytes c.minRate ++
    twoBytes c.maxRate ++ twoBytes c.startRate ++ twoBytes c.fallback ++ List.replicate 5 0 := rfl

theorem QueueSection.cells_eq (q : QueueSection) : q.bytes.cells =
    [byteOf q.storage, byteOf q.target, byteOf q.dwell, byteOf q.flushHold] ++ twoBytes q.emptyTime ++
      List.replicate 10 0 := rfl

theorem Plan.image_eq (p : Plan) : p.image.cells = imageOf p := by
  have sections : p.image.cells =
      p.layout.bytes.cells ++ p.timing.bytes.cells ++ p.control.bytes.cells ++ p.queue.bytes.cells := p.image_cells
  rw [sections, Timing.cells_eq, Control.cells_eq, QueueSection.cells_eq]
  simp only [imageOf, Layout.bytes, Layout.options, chanByte_eq, List.append_assoc]
  rfl

/-! ### The parts of the groups -/

theorem marksBytes_eq (marks : List PlanField) : marksBytes marks = countedBytes (marks.map fun f => [byteOf f.offset]) := by
  have singles : marks.map (fun f => byteOf f.offset) = (marks.map fun f => [byteOf f.offset]).flatten := by
    rw [List.map_eq_flatMap, List.flatMap_def]
  simp only [countedBytes, List.length_map, ← singles]
  rfl

theorem Override.bytes_eq : Override.bytes =
    fun o => twoBytes o.rate ++ twoBytes (o.remaining.getD 0) ++ [if o.setBy = .loc then 0 else 1] := by
  funext o
  cases h : o.setBy <;> simp only [Override.bytes, h] <;> rfl

theorem State.headsBytes_eq (s : State) (n : RampNo) : (List.finRange 3).flatMap (fun k => (s.head (headOf n k)).bytes) =
    (s.head (headOf n 0)).form ++ (s.head (headOf n 1)).form ++ (s.head (headOf n 2)).form := by
  rw [Head.bytes_eq, show List.finRange 3 = [0, 1, 2] from rfl]
  simp

theorem faultBytes_eq (f : FaultSet) : faultBytes f = countedBytes (f.positions.map fun i => [byteOf i]) := listField_eq _ _

theorem membersForm_eq (l : List (RampNo × Nat)) : membersForm l = countedBytes (l.map memberBytes) := rfl

theorem ZoneAmendment.bytes_eq : ZoneAmendment.bytes = fun a => (a.oc.map twoBytes).getD [0xFF, 0xFF] ++
    [(a.gz.map byteOf).getD 0xFF] ++ (a.rmax.map twoBytes).getD [0xFF, 0xFF] ++ membersForm a.weights ++
    membersForm a.additions := by
  funext a
  simp only [ZoneAmendment.bytes, optField_one, optField_two, listField_eq, membersForm_eq]

theorem BulletinEntry.bytes_eq : BulletinEntry.bytes = fun e => [byteOf e.state.pos] ++ twoBytes e.r ++
    countedBytes (e.shares.map fun m => byteOf m.1.val :: twoBytes m.2) := by
  funext e
  simp only [BulletinEntry.bytes, listField_eq]
  rfl

theorem Slot.bytes_eq (k : Slot) : k.bytes = [byteOf k.state.pos, Config.markByte k.guarded] ++
    partBytes (if k.state = .valid then some [k.image.get 0, firstOf (decide (byteAt k.image 3 / 2 % 2 = 1)),
      firstOf (decide (byteAt k.image 3 / 4 % 2 = 1))] else none) := by
  cases e : k.state <;> simp [Slot.bytes, e, one_eq, unlisted, listed, firstOf, partBytes]

theorem State.slotsBytes_eq (s : State) : s.slots.cells.map Slot.bytes = (List.finRange 24).map fun k => (s.slot k).bytes := by
  rw [Table.cells_eq s.slots, List.map_map]
  rfl

theorem State.stageBytes_eq (s : State) : s.stage.cells.flatMap (fun f => unlisted f.isSome) =
    [0, 1, 2, 3].map fun j => Config.markByte (s.stage.get j).isSome := by
  rw [Table.cells_eq s.stage]
  rfl

theorem reportBytes_eq (e : Option ReportEntry) : reportBytes e =
    [(e.map fun e => byteOf e.outcome.index.val).getD 0xFF, (e.bind (·.bound)).getD 0xFF] := by cases e <;> rfl

theorem LinkCtx.bytes_eq (c : LinkCtx) : c.bytes =
    [byteOf c.linkState.pos, byteOf c.rx.pos, Config.markByte c.overrun, firstOf c.supervised] ++
      twoBytes c.supTime ++ twoBytes c.supTimer := by
  simp [LinkCtx.bytes, one_eq, two_eq, listed, unlisted, firstOf]

/-! ### The groups -/

/-- Each group in the words of the statement: its fields by their forms, its parts by the lemmas above. -/
theorem State.lookupForms (s : State) : LookupForms s where
  status n := by
    simp [State.rampStatus, Ramp.statusBytes, State.headsBytes_eq, Override.bytes_eq, one_eq, two_eq, optPart_eq, optField_one,
      optField_two, listField_eq, marksBytes_eq, listed, unlisted, firstOf, Function.comp_def]
  plan n := by
    simp only [Ramp.planBytes, optPart_eq, Plan.image_eq]
    rfl
  channel c := by
    simp [State.channelBytes, one_eq, two_eq, natBytes_three, listField_eq, faultBytes_eq, listed, unlisted, firstOf]
  noSummary c h := by
    unfold State.channelSummary
    split
    · next hl hw => simp [hl, hw] at h
    · rfl
    · rfl
  summary c e w he hw := by simp [State.channelSummary, he, hw, summaryBytes, one_eq, two_eq, faultBytes_eq]
  zone z := by
    simp only [Zone.bytes, one_eq, two_eq, membersForm_eq, listField_eq, optField_two, optPart_eq, ZoneAmendment.bytes_eq]
    simp [listed, firstOf]
  bulletin z := by
    simp only [State.bulletinBytes, optPart_eq, BulletinEntry.bytes_eq]
    rfl
  directory := by
    simp only [State.directoryBytes, listField_eq, State.slotsBytes_eq, State.stageBytes_eq, optPart_eq, Slot.bytes_eq]
    rfl
  settings := by simp only [State.settingsBytes, optPart_eq, Settings.bytes_eq]
  report := by
    simp only [State.reportListing, listField_eq, Table.cells_eq s.report, List.map_map, Function.comp_def, reportBytes_eq]

theorem listPositions : ListPositions where
  state := by decide
  sub := by decide
  stopped := by decide
  authority := by decide
  limiting := by decide
  limitingZone _ := rfl
  cycle := by decide
  aspect := by decide
  fault := by decide
  kind := by decide
  health := by decide
  validity := by decide
  zone := by decide
  slot := by decide
  op := by decide
  source := by decide
  link := by decide
  frame := ⟨rfl, fun _ => rfl, rfl⟩
  outcome := by decide
  faults _ _ _ := rfl
  referencer := ⟨fun _ => rfl, fun _ => rfl⟩
  offset := by decide

/-! ### The answers -/

/-- A row of a group: RANGE when its index names nothing, otherwise DONE with the fields read in the state the frame left. -/
def Answers (s : State) (l : Link) (c : Instr) (fields : Option (List Byte)) : Prop :=
  (∀ bytes, fields = some bytes →
    ∃ t, exec c s = .next t ∧ Answered s t l 0x10 .done bytes ∧ NoNotice s t l ∧ OnlyLinks s t) ∧
  (fields = none → ∃ t, exec c s = .next t ∧ Refused s t l 0x10 .range)

theorem answers_of_lookup {α : Type} {s : State} {l : Link} {c : Instr} {index : Option α} {read : State → α → List Byte}
    {fields : α → List Byte} (ht : s.takes l)
    (row : exec c s = .next (s.frame l 0x10 fun t => t.lookup index (read t)))
    (same : ∀ a, read (s.goodFrame l) a = fields a) : Answers s l c (index.map fields) := by
  cases index with
  | none => exact ⟨fun _ e => (nomatch e), fun _ => ⟨_, row, State.frame_refused ht rfl⟩⟩
  | some a =>
    refine ⟨fun bytes e => ?_, fun e => nomatch e⟩
    cases e
    exact ⟨_, row, State.frame_unchanged (r := .with (fields a)) ht (by rw [← same a]; rfl)⟩

/-- Link `l` shows itself EXECUTING to its own LOOKUP (R142). -/
theorem State.linkBytes_goodFrame (s : State) (l k : Link) : ((s.goodFrame l).link k).bytes =
    (if k = l then { s.link k with
      linkState := .executing, rx := .absent, supervised := true, supTimer := 0 } else s.link k).bytes := by
  rw [State.link_goodFrame]
  split
  · next e => subst e; rfl
  · rfl

/-- Settles O50: each row reads its group in the state the good frame left, of which only the links differ. -/
theorem lookupsAnswered : Obligations.LookupsAnswered := by
  refine ⟨State.lookupForms, listPositions, Plan.image_eq, LinkCtx.bytes_eq, fun s l index ht => ?_⟩
  change ∀ c : Instr × Option (List Byte), c ∈ _ → Answers s l c.1 c.2
  simp only [List.forall_mem_cons]
  have form := s.goodFrame_form l
  refine ⟨answers_of_lookup ht rfl fun n => ?_, answers_of_lookup ht rfl fun n => ?_, answers_of_lookup ht rfl fun c => ?_,
    answers_of_lookup ht rfl fun c => ?_, answers_of_lookup ht rfl fun z => ?_, answers_of_lookup ht rfl fun z => ?_,
    answers_of_lookup (fields := fun _ : Unit => s.directoryBytes) (index := some ()) ht rfl fun _ => ?_,
    answers_of_lookup (fields := fun _ : Unit => s.settingsBytes) (index := some ()) ht rfl fun _ => ?_,
    answers_of_lookup (fields := fun _ : Unit => s.reportListing) (index := some ()) ht rfl fun _ => ?_,
    answers_of_lookup ht rfl (s.linkBytes_goodFrame l), by simp⟩
  all_goals
    rw [form]
    rfl

end Sys2Proof.Machine
end

section
/-! NOTICE QUERY, NOTICE MASK and the NOTICE line (R145, R151 to R154): the first unmasked record, the bytes of each detail, the kinds
that a mask shows, and what moves the line. -/

namespace Sys2Proof.Machine

/-! ### The record that a query gives (R152) -/

theorem NoticeKind.priority_inj {j k : NoticeKind} (h : j.priority = k.priority) : j = k := by
  revert h
  cases j <;> cases k <;> decide

theorem NoticeKind.subjects_le (k : NoticeKind) : k.subjects ≤ 64 := by cases k <;> decide

theorem noticesOrdered_subject {set : List Notice} (h : noticesOrdered set) {n : Notice} (hn : n ∈ set) :
    n.subject < n.kind.subjects := by
  induction set with
  | nil => cases hn
  | cons m rest ih =>
    obtain ⟨hs, _, hr⟩ := h
    rcases List.mem_cons.1 hn with rfl | hn
    · exact hs
    · exact ih hr hn

/-- The order of keys is that of priorities, then of subjects. -/
theorem precedes_of_noticeKey {n m : Notice} (hm : m.subject < m.kind.subjects)
    (h : noticeKey n.kind n.subject ≤ noticeKey m.kind m.subject) :
    n.kind.priority < m.kind.priority ∨ n.kind = m.kind ∧ n.subject ≤ m.subject := by
  have bound := m.kind.subjects_le
  unfold noticeKey at h
  rcases Nat.lt_or_ge n.kind.priority m.kind.priority with lt | ge
  · exact .inl lt
  · exact .inr ⟨NoticeKind.priority_inj (by omega), by omega⟩

/-- The first record of an ordered set goes before every record of it. -/
theorem head_precedes {n : Notice} {rest : List Notice} (h : noticesOrdered (n :: rest)) {m : Notice} (hm : m ∈ n :: rest) :
    n.kind.priority < m.kind.priority ∨ n.kind = m.kind ∧ n.subject ≤ m.subject := by
  refine precedes_of_noticeKey (noticesOrdered_subject h hm) ?_
  rcases List.mem_cons.1 hm with rfl | hm
  · exact Nat.le_refl _
  · exact Nat.le_of_lt (h.2.1 m hm)

theorem LinkCtx.mem_visible {c : LinkCtx} {n : Notice} : n ∈ c.visible ↔ n ∈ c.set ∧ c.shows n.kind = true :=
  List.mem_filter

theorem LinkCtx.queryBytes_none {c : LinkCtx} (h : c.visible = []) : c.queryBytes = [0] := by
  simp only [LinkCtx.queryBytes, h]
  rfl

theorem LinkCtx.queryBytes_cons {c : LinkCtx} {n : Notice} {rest : List Notice} (h : c.visible = n :: rest) :
    c.queryBytes = [BitVec.ofNat 8 c.visible.length, BitVec.ofNat 8 n.kind.priority, BitVec.ofNat 8 n.subject,
      Config.markByte n.latched, Config.markByte n.live, BitVec.ofNat 8 n.detail.bytes.length] ++ n.detail.bytes := by
  simp only [LinkCtx.queryBytes, h]
  rfl

theorem LinkCtx.queryBytes_first {c : LinkCtx} (ordered : noticesOrdered c.set) (some : c.visible.length ≠ 0) :
    ∃ n ∈ c.set, c.shows n.kind = true ∧
      (∀ m ∈ c.set, c.shows m.kind = true →
        n.kind.priority < m.kind.priority ∨ n.kind = m.kind ∧ n.subject ≤ m.subject) ∧
      c.queryBytes = [BitVec.ofNat 8 c.visible.length, BitVec.ofNat 8 n.kind.priority, BitVec.ofNat 8 n.subject,
        Config.markByte n.latched, Config.markByte n.live, BitVec.ofNat 8 n.detail.bytes.length] ++ n.detail.bytes := by
  have sorted : noticesOrdered c.visible := noticesOrdered_filter ordered
  cases e : c.visible with
  | nil => exact absurd (congrArg List.length e) some
  | cons n rest =>
    obtain ⟨hset, hshown⟩ := LinkCtx.mem_visible.1 (e ▸ List.mem_cons_self : n ∈ c.visible)
    refine ⟨n, hset, hshown, fun m hm hs => ?_, e ▸ LinkCtx.queryBytes_cons e⟩
    exact head_precedes (e ▸ sorted) (e ▸ LinkCtx.mem_visible.2 ⟨hm, hs⟩)

/-! ### The mask (R151) -/

theorem NoticeKind.index_inj {j k : NoticeKind} (h : j.index = k.index) : j = k :=
  NoticeKind.priority_inj (congrArg (·.val + 1) h)

theorem maskOf_shows (kinds : List NoticeKind) (k : NoticeKind) : (maskOf kinds).get k.index = true ↔ k ∈ kinds := by
  simp only [maskOf, Table.get_build, List.any_eq_true, decide_eq_true_eq]
  exact ⟨fun ⟨j, hj, e⟩ => NoticeKind.index_inj e ▸ hj, fun h => ⟨k, h, rfl⟩⟩

theorem State.maskNotices_none {s : State} {kinds : List Byte} (l : Link) (h : allArgs kindArg kinds = none) :
    s.maskNotices l kinds = (s, .refuse .range) := by simp [State.maskNotices, h]

theorem State.maskNotices_long {s : State} {kinds : List Byte} (l : Link) (h : 11 < kinds.length) :
    s.maskNotices l kinds = (s, .refuse .range) := by
  unfold State.maskNotices
  split
  · rfl
  · next ks e => exact if_pos (length_of_allArgs e ▸ h)

theorem State.maskNotices_some {s : State} {kinds : List Byte} {ks : List NoticeKind} (l : Link)
    (h : allArgs kindArg kinds = some ks) (fits : ks.length ≤ 11) :
    s.maskNotices l kinds = (s.setLink l { s.link l with unmasked := maskOf ks }, .done) := by
  simp only [State.maskNotices, h, if_neg (Nat.not_lt.2 fits)]

theorem exec_noticeMask (l : Link) (kinds : List Byte) (s : State) :
    exec (.noticeMask l kinds) s = .next (s.frame l 0x52 fun t => t.maskNotices l kinds) := rfl

/-- The state in which the good frame's link shows these kinds. -/
def State.masked (s : State) (l : Link) (ks : List NoticeKind) : State :=
  (s.goodFrame l).setLink l { (s.goodFrame l).link l with unmasked := maskOf ks }

theorem State.masked_onlyLinks (s : State) (l : Link) (ks : List NoticeKind) : OnlyLinks s (s.masked l ks) :=
  (s.goodFrame_onlyLinks l).trans (State.setLink_onlyLinks _ _ _)

theorem State.frame_masked {s : State} {l : Link} {kinds : List Byte} {ks : List NoticeKind} (ht : s.takes l)
    (h : allArgs kindArg kinds = some ks) (fits : ks.length ≤ 11) :
    s.frame l 0x52 (fun t => t.maskNotices l kinds) = (s.masked l ks).respond l 0x52 .done :=
  State.frame_eq ht (State.maskNotices_some l h fits)

theorem State.link_masked (s : State) (l : Link) (ks : List NoticeKind) : (s.masked l ks).link l = { s.link l with
    linkState := .executing, rx := .absent, gap := 0, supervised := true, supTimer := 0
    set := s.setAfterFrame l l, unmasked := maskOf ks } := by
  rw [State.masked, State.link_setLink_same, State.link_goodFrame]
  simp

theorem State.link_masked_other (s : State) {l k : Link} (ne : k ≠ l) (ks : List NoticeKind) :
    (s.masked l ks).link k = { s.link k with set := s.setAfterFrame l k } := by
  rw [State.masked, State.link_setLink_other _ _ ne, State.link_goodFrame]
  simp [ne]

theorem State.set_masked (s : State) (l k : Link) (ks : List NoticeKind) :
    ((s.masked l ks).link k).set = s.setAfterFrame l k := by
  by_cases e : k = l
  · rw [e, State.link_masked]
  · rw [State.link_masked_other s e]

theorem State.link_respond_masked (s : State) (l : Link) (ks : List NoticeKind) :
    ((s.masked l ks).respond l 0x52 .done).link l = { (s.masked l ks).link l with
      linkState := .replying, overrun := false
      response := some ⟨.done, (s.masked l ks).flagsFor l, 0x52, []⟩ } := by
  rw [State.link_respond, if_pos rfl]
  rfl

theorem State.flagsFor_masked (s : State) (l : Link) (ks : List NoticeKind) : (s.masked l ks).flagsFor l =
    ⟨((s.masked l ks).link l).noticePending, (s.link l).overrun, true, s.takeover, s.permit⟩ := by
  have only := s.masked_onlyLinks l ks
  simp only [State.flagsFor, State.link_masked, only.takeover, only.permit]

/-- What a NOTICE MASK that is DONE leaves of the links (R139, R151). -/
theorem masked_answered {s : State} {l : Link} {kinds : List Byte} {ks : List NoticeKind} (ht : s.takes l)
    (h : allArgs kindArg kinds = some ks) (fits : ks.length ≤ 11) :
    ∃ t, exec (.noticeMask l kinds) s = .next t ∧ (∀ k : NoticeKind, (t.link l).shows k = true ↔ k ∈ ks) ∧
      (∀ j, j ≠ l → (t.link j).unmasked = (s.link j).unmasked) ∧ (t.link l).linkState = .replying ∧
      (t.link l).response = some
        ⟨.done, ⟨(t.link l).noticePending, (s.link l).overrun, true, s.takeover, s.permit⟩, 0x52, []⟩ ∧
      NoNotice s t l ∧ OnlyLinks s t := by
  have self := s.link_respond_masked l ks
  refine ⟨_, congrArg Host.Outcome.next (State.frame_masked ht h fits), fun k => ?_, fun j ne => ?_,
    congrArg LinkCtx.linkState self, ?_, ?_, (State.setLink_onlyLinks _ _ _).framed _ _⟩
  · rw [self, State.link_masked]
    exact maskOf_shows ks k
  · rw [State.link_respond, if_neg ne, State.link_masked_other s ne]
  · rw [self, State.flagsFor_masked]
    rfl
  · exact noNotice_of_sets (fun k => by rw [State.set_masked, State.set_goodFrame]) _ _

/-! ### What moves the NOTICE line (R154) -/

theorem State.noticeLine_iff (s : State) :
    s.noticeLine = true ↔ s.resetHeld = false ∧ ∃ r ∈ s.loc.set, s.loc.shows r.kind = true := by
  simp [State.noticeLine, LinkCtx.noticePending]

/-- A live clear moves no kind and no subject. -/
theorem exists_liveClearIn (k : NoticeKind) (i : Nat) (set : List Notice) (p : NoticeKind → Nat → Prop) :
    (∃ r ∈ liveClearIn k i set, p r.kind r.subject) ↔ ∃ r ∈ set, p r.kind r.subject := by
  constructor
  · rintro ⟨r, hr, h⟩
    obtain ⟨m, hm, ek, es, _⟩ := of_mem_liveClearIn hr
    exact ⟨m, hm, by rwa [ek, es]⟩
  · rintro ⟨r, hr, h⟩
    refine ⟨_, List.mem_map.2 ⟨r, hr, rfl⟩, ?_⟩
    split
    · exact h
    · exact h

theorem State.exists_setAfterFrame (s : State) (l k : Link) (p : NoticeKind → Nat → Prop) :
    (∃ r ∈ s.setAfterFrame l k, p r.kind r.subject) ↔ ∃ r ∈ (s.link k).set, p r.kind r.subject := by
  unfold State.setAfterFrame
  split
  · rfl
  · exact exists_liveClearIn _ _ _ p

theorem State.shows_goodFrame (s : State) (l k : Link) : ((s.goodFrame l).link k).shows = (s.link k).shows := by
  rw [State.link_goodFrame]
  split
  · next e => rw [e]; rfl
  · rfl

theorem State.shows_respond (s : State) (l k : Link) (code : Byte) (r : Reply) :
    ((s.respond l code r).link k).shows = (s.link k).shows := by
  rw [State.link_respond]
  split
  · next e => rw [e]; rfl
  · rfl

theorem State.noticeLine_respond (s : State) (l : Link) (code : Byte) (r : Reply) :
    (s.respond l code r).noticeLine = s.noticeLine := by
  have set : (s.respond l code r).loc.set = s.loc.set := s.set_respond l .loc code r
  have shows : (s.respond l code r).loc.shows = s.loc.shows := s.shows_respond l .loc code r
  simp only [State.noticeLine, LinkCtx.noticePending, State.respond_resetHeld, set, shows]

theorem State.noticeLine_goodFrame (s : State) (l : Link) : (s.goodFrame l).noticeLine = s.noticeLine := by
  have shows : (s.goodFrame l).loc.shows = s.loc.shows := s.shows_goodFrame l .loc
  have set : (s.goodFrame l).loc.set = s.setAfterFrame l .loc := s.set_goodFrame l .loc
  rw [Bool.eq_iff_iff, State.noticeLine_iff, State.noticeLine_iff, State.goodFrame_resetHeld, shows, set]
  exact and_congr_right fun _ => s.exists_setAfterFrame l .loc fun k _ => s.loc.shows k = true

/-- A block that leaves the local link and RESET alone does not move the line. -/
theorem State.noticeLine_frame_of_loc {s : State} {l : Link} {code : Byte} {run : State → State × Reply} (ht : s.takes l)
    (same : ∀ t, (run t).1.loc = t.loc ∧ (run t).1.resetHeld = t.resetHeld) :
    (s.frame l code run).noticeLine = s.noticeLine := by
  obtain ⟨loc, held⟩ := same (s.goodFrame l)
  rw [State.frame_takes ht, State.noticeLine_respond, ← s.noticeLine_goodFrame l]
  simp only [State.noticeLine, loc, held]

theorem clearNotice_centre (t : State) (kind subject : Byte) :
    (t.clearNotice .centre kind subject).1.loc = t.loc ∧ (t.clearNotice .centre kind subject).1.resetHeld = t.resetHeld := by
  unfold State.clearNotice
  repeat' split
  all_goals exact ⟨rfl, rfl⟩

theorem maskNotices_centre (t : State) (kinds : List Byte) :
    (t.maskNotices .centre kinds).1.loc = t.loc ∧ (t.maskNotices .centre kinds).1.resetHeld = t.resetHeld := by
  unfold State.maskNotices
  repeat' split
  all_goals exact ⟨rfl, rfl⟩

/-- A NOTICE QUERY, and the other notice commands on the centre link, leave the line. -/
theorem noticeLine_left {s : State} {l : Link} (ht : s.takes l) (kind subject unused : Byte) (kinds : List Byte) :
    ∀ c ∈ [Instr.noticeQuery l unused, .noticeMask .centre kinds, .noticeClear .centre kind subject,
        .noticeClearAll .centre unused], (c = .noticeQuery l unused ∨ l = .centre) →
      ∃ t, exec c s = .next t ∧ t.noticeLine = s.noticeLine := by
  have centre {c : Instr} (h : c = .noticeQuery l unused ∨ l = .centre) (ne : c ≠ .noticeQuery l unused) :
      s.takes .centre := h.resolve_left ne ▸ ht
  simp only [List.forall_mem_cons]
  refine ⟨fun _ => ⟨_, rfl, State.noticeLine_frame_of_loc ht fun _ => ⟨rfl, rfl⟩⟩, fun h => ?_, fun h => ?_, fun h => ?_,
    by simp⟩
  · exact ⟨_, rfl, State.noticeLine_frame_of_loc (centre h nofun) fun t => maskNotices_centre t kinds⟩
  · refine ⟨_, rfl, State.noticeLine_frame_of_loc (centre h nofun) fun t => ?_⟩
    split
    · exact ⟨rfl, rfl⟩
    · exact clearNotice_centre t kind subject
  · exact ⟨_, rfl, State.noticeLine_frame_of_loc (centre h nofun) fun t => ⟨rfl, rfl⟩⟩

/-- The line once a command on the local link is answered: the records of the block's set of the kinds it shows. -/
theorem State.noticeLine_answered {u : State} (held : u.resetHeld = false) (r : Reply) (code : Byte) :
    (u.respond .loc code r).noticeLine = true ↔ ∃ n ∈ u.loc.set, u.loc.shows n.kind = true := by
  rw [State.noticeLine_respond, State.noticeLine_iff]
  exact and_iff_right held

theorem noticeLine_masked {s : State} {kinds : List Byte} {ks : List NoticeKind} (ht : s.takes .loc)
    (h : allArgs kindArg kinds = some ks) (fits : ks.length ≤ 11) :
    ∃ t, exec (.noticeMask .loc kinds) s = .next t ∧ (t.noticeLine = true ↔ ∃ r ∈ s.loc.set, r.kind ∈ ks) := by
  refine ⟨_, exec_noticeMask .loc kinds s, ?_⟩
  have held := (s.masked_onlyLinks .loc ks).resetHeld.trans ht.1
  have link : (s.masked .loc ks).loc = _ := s.link_masked .loc ks
  rw [State.frame_masked ht h fits, State.noticeLine_answered held, link]
  simp only [LinkCtx.shows, maskOf_shows]
  exact s.exists_setAfterFrame .loc .loc fun k _ => k ∈ ks

theorem State.clearNotice_some {t : State} {l : Link} {kind subject : Byte} {k : NoticeKind} (h : kindArg kind = some k)
    (hs : subject.toNat < k.subjects) : t.clearNotice l kind subject =
      (t.modSet l fun set => set.filter fun n => decide (¬(n.kind = k ∧ n.subject = subject.toNat)), .done) := by
  simp only [State.clearNotice, h, if_pos hs]

theorem kindArg_ne_all {kind : Byte} {k : NoticeKind} (h : kindArg kind = some k) : kind ≠ 0xFF := by
  rintro rfl
  have none : kindArg 0xFF = none := by decide
  rw [none] at h
  cases h

theorem exec_noticeClear (l : Link) (kind subject : Byte) (s : State) : exec (.noticeClear l kind subject) s =
    .next (s.frame l 0x51 fun t => if kind = 0xFF then t.clearAllNotices l else t.clearNotice l kind subject) := rfl

theorem noticeLine_cleared {s : State} {kind subject : Byte} {k : NoticeKind} (ht : s.takes .loc)
    (h : kindArg kind = some k) (hs : subject.toNat < k.subjects) :
    ∃ t, exec (.noticeClear .loc kind subject) s = .next t ∧ (t.noticeLine = true ↔
      ∃ r ∈ s.loc.set, s.loc.shows r.kind = true ∧ ¬ (r.kind = k ∧ r.subject = subject.toNat)) := by
  refine ⟨_, exec_noticeClear .loc kind subject s, ?_⟩
  rw [State.frame_eq ht ((if_neg (kindArg_ne_all h)).trans (State.clearNotice_some h hs)),
    State.noticeLine_answered ((State.modSet_onlyLinks _ _ _).resetHeld.trans ((s.goodFrame_resetHeld .loc).trans ht.1))]
  have shows : (s.goodFrame .loc).loc.shows = s.loc.shows := s.shows_goodFrame .loc .loc
  have set : (s.goodFrame .loc).loc.set = s.setAfterFrame .loc .loc := s.set_goodFrame .loc .loc
  change (∃ n ∈ (s.goodFrame .loc).loc.set.filter _, (s.goodFrame .loc).loc.shows n.kind = true) ↔ _
  rw [shows, set]
  have kept := s.exists_setAfterFrame .loc .loc fun j i => s.loc.shows j = true ∧ ¬ (j = k ∧ i = subject.toNat)
  refine Iff.trans ?_ kept
  simp only [List.mem_filter, decide_eq_true_eq, and_assoc]
  exact exists_congr fun r => and_congr_right fun _ => and_comm

theorem noticeLine_cleared_all {s : State} (ht : s.takes .loc) (unused : Byte) :
    ∃ t, exec (.noticeClearAll .loc unused) s = .next t ∧ t.noticeLine = false := by
  refine ⟨_, rfl, Bool.eq_false_iff.2 fun shown => ?_⟩
  rw [State.frame_eq (u := (s.goodFrame .loc).modSet .loc fun _ => []) (r := .done) ht rfl, State.noticeLine_respond,
    State.noticeLine_iff] at shown
  obtain ⟨_, r, hr, _⟩ := shown
  cases hr

/-! ### The bytes of a detail (R145) -/

theorem parkedDetail_bytes (cause : RampCause) (st : StopCause) (h : stoppedCauseOf cause = some st) :
    (Detail.rampState .parked cause).bytes = [1, byteOf st.pos] := by
  simp only [Detail.bytes, causeByte, h]
  rfl

/-! ### The answers (R151, R152) -/

/-- Settles O52: of an ordered set the first unmasked record goes before the others, a detail's bytes are its fields, and the line
follows the kinds and subjects of the local set, which a good frame does not move. -/
theorem noticesQueriedAndMasked : Obligations.NoticesQueriedAndMasked := by
  refine ⟨State.noticeLine_iff, fun c ordered => ⟨fun none => ?_, LinkCtx.queryBytes_first ordered⟩,
    fun r cause h f a c x y z counts => ⟨rfl, ?_, fun hp => ?_, ?_, rfl, rfl, rfl, ?_⟩,
    fun st r w unable done zc dc faults op bound => ⟨rfl, rfl, rfl, ?_, rfl⟩,
    fun s kind subject unused kinds k ks ht hk hs hks fits => ⟨noticeLine_masked ht hks fits, noticeLine_cleared ht hk hs,
      noticeLine_cleared_all ht unused⟩,
    fun s l kind subject unused kinds ht => noticeLine_left ht kind subject unused kinds,
    fun s l unused kinds ht => ⟨?_, fun ks hks fits => masked_answered ht hks fits,
      fun bad => ?_⟩⟩
  · exact LinkCtx.queryBytes_none (List.eq_nil_of_length_eq_zero none)
  · cases c <;> rfl
  · cases r
    case parked => exact absurd rfl hp
    all_goals rfl
  · simp only [List.forall_mem_cons]
    exact ⟨parkedDetail_bytes _ .command rfl, parkedDetail_bytes _ .command rfl, parkedDetail_bytes _ .command rfl,
      parkedDetail_bytes _ .permit rfl, parkedDetail_bytes _ .closed rfl, by simp⟩
  · exact (List.map_eq_flatMap).symm
  · exact congrArg (_ :: ·) (List.map_eq_flatMap).symm
  · have read : ((s.goodFrame l).link l).queryBytes = { s.link l with set := s.setAfterFrame l l }.queryBytes := by
      rw [State.link_goodFrame, if_pos rfl]
      rfl
    rw [← read]
    exact ⟨_, rfl, State.frame_unchanged (r := .with ((s.goodFrame l).link l).queryBytes) ht rfl⟩
  · refine ⟨_, exec_noticeMask l kinds s, State.frame_refused ht ?_⟩
    exact bad.elim (State.maskNotices_none l) (State.maskNotices_long l)

end Sys2Proof.Machine
end

section
/-! The order of the pending sets (R149, R152) through the operations on the records, the ramps and the lanes. -/

namespace Sys2Proof.Machine

/-! ### Operations that leave the links -/

/-- Both links are as they were, whatever became of the records. -/
structure LinksSame (s t : State) : Prop where
  loc : t.loc = s.loc
  centre : t.centre = s.centre

theorem LinksSame.refl (s : State) : LinksSame s s := ⟨rfl, rfl⟩

theorem LinksSame.trans {s t u : State} (h : LinksSame s t) (k : LinksSame t u) : LinksSame s u :=
  ⟨k.loc.trans h.loc, k.centre.trans h.centre⟩

theorem LinksSame.of_link {s t : State} (h : ∀ l, t.link l = s.link l) : LinksSame s t := ⟨h .loc, h .centre⟩

section
variable {s : State}

theorem State.setsOrdered.of_links {t : State} (h : s.setsOrdered) (k : LinksSame s t) : t.setsOrdered := by
  unfold State.setsOrdered
  rw [k.loc, k.centre]
  exact h

/-- A link's context rewritten, its pending set by a set in good form. -/
theorem State.setsOrdered.setLink (h : s.setsOrdered) (l : Link) {c : LinkCtx} (hc : noticesOrdered c.set) :
    (s.setLink l c).setsOrdered := by
  cases l with
  | loc => exact ⟨hc, h.2⟩
  | centre => exact ⟨h.1, hc⟩

theorem State.setsOrdered.link (h : s.setsOrdered) (l : Link) : noticesOrdered (s.link l).set :=
  s.setsOrdered_iff.1 h l

theorem State.setsOrdered.modRamp (h : s.setsOrdered) (n : RampNo) (f : Ramp → Ramp) : (s.modRamp n f).setsOrdered :=
  h.of_links ⟨rfl, rfl⟩

theorem State.setsOrdered.modChan (h : s.setsOrdered) (c : Chan) (f : Channel → Channel) : (s.modChan c f).setsOrdered :=
  h.of_links ⟨rfl, rfl⟩

theorem State.setsOrdered.setHead (h : s.setsOrdered) (g : HeadNo) (c : Head) : (s.setHead g c).setsOrdered :=
  h.of_links ⟨rfl, rfl⟩

/-! ### An operation made for each of several records -/

theorem State.setsOrdered.eachLane (h : s.setsOrdered) {f : LaneNo → State → State}
    (hf : ∀ k t, t.setsOrdered → (f k t).setsOrdered) (lanes : List LaneNo) : (s.eachLane lanes f).setsOrdered :=
  State.eachLane_induct (P := State.setsOrdered) hf lanes h

theorem State.setsOrdered.eachRamp (h : s.setsOrdered) {f : RampNo → State → State}
    (hf : ∀ n t, t.setsOrdered → (f n t).setsOrdered) : (s.eachRamp f).setsOrdered :=
  State.eachRamp_induct (P := State.setsOrdered) hf h

theorem State.setsOrdered.eachHead (h : s.setsOrdered) {f : HeadNo → State → State}
    (hf : ∀ g t, t.setsOrdered → (f g t).setsOrdered) : (s.eachHead f).setsOrdered :=
  State.eachHead_induct (P := State.setsOrdered) hf h

theorem State.setsOrdered.eachChan (h : s.setsOrdered) {f : Chan → State → State}
    (hf : ∀ c t, t.setsOrdered → (f c t).setsOrdered) : (s.eachChan f).setsOrdered :=
  State.eachChan_induct (P := State.setsOrdered) hf h

/-! ### The queue and the lane cycle -/

theorem State.setsOrdered.rampNotice (h : s.setsOrdered) (n : RampNo) (cause : RampCause) :
    (s.rampNotice n cause).setsOrdered := h.raise n.isLt _ _

theorem State.setsOrdered.tryFlushExit (h : s.setsOrdered) (n : RampNo) : (s.tryFlushExit n).setsOrdered := by
  unfold State.tryFlushExit
  split
  · exact ((h.modRamp n _).rampNotice n _).liveClear _ _
  · exact h

theorem State.setsOrdered.takeGreenStart (h : s.setsOrdered) (n : RampNo) (k : LaneNo) :
    (s.takeGreenStart n k).setsOrdered := by
  unfold State.takeGreenStart
  split
  · exact h
  · split
    · exact h
    · exact (h.modRamp n _).tryFlushExit n

theorem State.setsOrdered.greenStarts (h : s.setsOrdered) (n : RampNo) (lanes : List LaneNo) :
    (s.greenStarts n lanes).setsOrdered :=
  ((h.modRamp n _).eachLane (fun _ _ ht => ht.writeHead _ _) lanes).eachLane (fun k _ ht => ht.takeGreenStart n k) lanes

theorem State.setsOrdered.tryRelease (h : s.setsOrdered) (n : RampNo) : (s.tryRelease n).setsOrdered := by
  unfold State.tryRelease
  split
  · exact h
  · split
    · exact h.greenStarts n _
    · exact h

theorem State.setsOrdered.reportEmpty (h : s.setsOrdered) (n : RampNo) : (s.reportEmpty n).setsOrdered :=
  h.of_links (.of_link (s.link_reportEmpty n))

theorem State.setsOrdered.takeEmpty (h : s.setsOrdered) (n : RampNo) : (s.takeEmpty n).setsOrdered := by
  unfold State.takeEmpty
  split
  · split
    · exact (h.modRamp n _).tryFlushExit n
    · exact h.modRamp n _
  · exact h

theorem State.setsOrdered.setCycle (h : s.setsOrdered) (g : HeadNo) (c : CycleState) : (s.setCycle g c).setsOrdered :=
  h.writeHead g _

theorem State.setsOrdered.judgeLane (h : s.setsOrdered) (n : RampNo) (p : Plan) (k : LaneNo) :
    (s.judgeLane n p k).setsOrdered := by
  unfold State.judgeLane
  split
  · split
    · exact h.setCycle _ _
    · exact h
  · split
    · exact (h.modRamp n _).setCycle _ _
    · exact h
  all_goals exact h

theorem State.setsOrdered.takeInterval (h : s.setsOrdered) (n : RampNo) : (s.takeInterval n).setsOrdered := by
  unfold State.takeInterval
  split
  · exact h
  · split
    · exact ((h.eachLane (fun k _ ht => ht.judgeLane n _ k) _).tryRelease n).reportEmpty n
    · exact h

theorem State.setsOrdered.laneBecomesReady (h : s.setsOrdered) (n : RampNo) (k : LaneNo) :
    (s.laneBecomesReady n k).setsOrdered := by
  unfold State.laneBecomesReady
  split
  · exact h
  · exact ((h.eachLane (fun j _ ht => ht.judgeLane n _ j) _).tryRelease n).reportEmpty n

theorem State.setsOrdered.finishGreen (h : s.setsOrdered) (n : RampNo) (p : Plan) (k : LaneNo) :
    (s.finishGreen n p k).setsOrdered := by
  unfold State.finishGreen
  split
  · exact h.writeHead _ _
  · exact h

theorem State.setsOrdered.endGreens (h : s.setsOrdered) (n : RampNo) (k : LaneNo) : (s.endGreens n k).setsOrdered := by
  unfold State.endGreens
  split
  · exact h
  · exact h.eachLane (fun j _ ht => ht.finishGreen n _ j) _

/-- A demand report moves the lane's head and the empty judgement alone. -/
theorem linksSame_takeDemand (s : State) (n : RampNo) (k : LaneNo) (on : Bool) : LinksSame s (s.takeDemand n k on) := by
  unfold State.takeDemand
  simp only []
  split
  · exact ⟨rfl, rfl⟩
  · exact ⟨rfl, rfl⟩

theorem linksSame_takeDemandHealth (s : State) (n : RampNo) (k : LaneNo) (health : Health) :
    LinksSame s (s.takeDemandHealth n k health) := by
  unfold State.takeDemandHealth
  simp only []
  split
  · exact ⟨rfl, rfl⟩
  · exact ⟨rfl, rfl⟩

/-! ### The transitions of a ramp -/

theorem State.setsOrdered.darken (h : s.setsOrdered) (n : RampNo) : (s.darken n).setsOrdered :=
  h.eachLane (fun _ _ ht => ht.writeHead _ _) _

theorem State.setsOrdered.leaveRunning (h : s.setsOrdered) (n : RampNo) : (s.leaveRunning n).setsOrdered := by
  unfold State.leaveRunning
  simp only []
  split
  · exact (h.modRamp n _).liveClear _ _
  · exact h.modRamp n _

theorem State.setsOrdered.park (h : s.setsOrdered) (n : RampNo) (stop : StopCause) (cause : RampCause) :
    (s.park n stop cause).setsOrdered := ((h.darken n).modRamp n _).rampNotice n cause

theorem State.setsOrdered.clearDemands (h : s.setsOrdered) (n : RampNo) : (s.clearDemands n).setsOrdered :=
  h.of_links (.of_link (s.link_clearDemands n))

theorem State.setsOrdered.vacate (h : s.setsOrdered) (n : RampNo) (cause : RampCause) : (s.vacate n cause).setsOrdered := by
  have emptied (t : State) (zones : Table Zone 6) :
      LinksSame t { (t.setRamp n Ramp.vacantRecord).releaseAll (.ramp n) with zones := zones } := ⟨rfl, rfl⟩
  exact (((h.darken n).clearDemands n).of_links (emptied _ _)).rampNotice n cause

theorem State.setsOrdered.installNew (h : s.setsOrdered) (n : RampNo) (set : Settled) (stop : StopCause) :
    (s.installNew n set stop).setsOrdered := by
  unfold State.installNew
  exact ((h.darken n).clearDemands n).of_links (.of_link fun l => by simp)

theorem linksSame_reconcile (s : State) (n : RampNo) (old new : List (Chan × Kind)) :
    LinksSame s (s.reconcile n old new) := by
  have released (claims : List (Chan × Kind)) (t : State) :
      LinksSame t (claims.foldl (fun t p => t.modChan p.1 fun c => c.releaseKind (.ramp n) p.2) t) := by
    induction claims generalizing t with
    | nil => exact .refl t
    | cons p rest ih =>
      exact LinksSame.trans (t := t.modChan p.1 fun c => c.releaseKind (.ramp n) p.2) ⟨rfl, rfl⟩ (ih _)
  exact (released _ s).trans (.of_link fun l => State.link_claimAll _ _ _ l)

theorem State.setsOrdered.replacePlan (h : s.setsOrdered) (n : RampNo) (old : Plan) (set : Settled) :
    (s.replacePlan n old set).setsOrdered :=
  (((h.darken n).modRamp n _).of_links (linksSame_reconcile _ n _ _)).eachLane (fun _ _ ht => ht.setHead _ _) _

theorem State.setsOrdered.enterStartRed (h : s.setsOrdered) (n : RampNo) (p : Plan) : (s.enterStartRed n p).setsOrdered :=
  (h.modRamp n _).eachLane (fun _ _ ht => ht.setCycle _ _) _

theorem State.setsOrdered.enterOpening (h : s.setsOrdered) (n : RampNo) (p : Plan) : (s.enterOpening n p).setsOrdered := by
  unfold State.enterOpening
  simp only []
  split
  · exact (h.modRamp n _).enterStartRed n p
  · exact h.modRamp n _

theorem State.setsOrdered.takeAlarm (h : s.setsOrdered) (n : RampNo) (p : Plan) : (s.takeAlarm n p).setsOrdered := by
  unfold State.takeAlarm
  exact ((h.modRamp n _).raise (k := .flush) n.isLt _ true).takeInterval n

theorem State.setsOrdered.meteringReleased (h : s.setsOrdered) (n : RampNo) (p : Plan) :
    (s.meteringReleased n p).setsOrdered := by
  have begun : (s.meteringBegun n p).setsOrdered :=
    ((h.modRamp n _).eachLane (fun _ _ ht => ht.writeHead _ _) _).rampNotice n _
  exact (begun.tryRelease n).reportEmpty n

theorem State.setsOrdered.enterMetering (h : s.setsOrdered) (n : RampNo) (p : Plan) :
    (s.enterMetering n p).setsOrdered := by
  have released := h.meteringReleased n p
  rw [State.enterMetering_eq]
  split
  · exact released.takeAlarm n p
  · exact released

theorem State.setsOrdered.endClosing (h : s.setsOrdered) (n : RampNo) : (s.endClosing n).setsOrdered := by
  unfold State.endClosing
  split
  · exact h.vacate n _
  · exact h.park n _ _

theorem State.setsOrdered.endSettle (h : s.setsOrdered) (n : RampNo) (p : Plan) : (s.endSettle n p).setsOrdered := by
  unfold State.endSettle
  split
  · exact h.endClosing n
  · exact (h.modRamp n _).eachLane (fun _ _ ht => ht.writeHead _ _) _

theorem State.setsOrdered.trySettle (h : s.setsOrdered) (n : RampNo) : (s.trySettle n).setsOrdered := by
  unfold State.trySettle
  split
  · exact h
  · split
    · exact h.endSettle n _
    · exact h

theorem State.setsOrdered.enterClosing (h : s.setsOrdered) (n : RampNo) (retire : Bool) (cause : RampCause) :
    (s.enterClosing n retire cause).setsOrdered :=
  (((h.leaveRunning n).modRamp n _).rampNotice n cause).trySettle n

theorem State.setsOrdered.lockoutNotice (h : s.setsOrdered) (n : RampNo) (g : HeadNo) (f : FaultClass) :
    (s.lockoutNotice n g f).setsOrdered := h.raise n.isLt _ _

theorem State.setsOrdered.enterLockout (h : s.setsOrdered) (n : RampNo) (g : HeadNo) (f : FaultClass) :
    (s.enterLockout n g f).setsOrdered :=
  (((h.leaveRunning n).darken n).modRamp n _).lockoutNotice n g f

theorem State.setsOrdered.permitStops (h : s.setsOrdered) (n : RampNo) : (s.permitStops n).setsOrdered := by
  unfold State.permitStops
  simp only []
  split
  · split
    · exact (h.leaveRunning n).vacate n _
    · exact (h.leaveRunning n).park n _ _
  · exact h

end

end Sys2Proof.Machine
end

section
/-! The order of the pending sets through the reports, the window close, the zones, the plan store, the links and the resets. -/

namespace Sys2Proof.Machine

section
variable {s : State}

/-! ### Reports (R46) -/

theorem State.setsOrdered.takePassage (h : s.setsOrdered) (n : RampNo) (k : LaneNo) (c : Chan) :
    (s.takePassage n k c).setsOrdered := by
  unfold State.takePassage
  split
  · exact (h.modRamp n _).tryFlushExit n
  · exact h

theorem State.setsOrdered.takeDemandAt (h : s.setsOrdered) (n : RampNo) (c : Chan) (on : Bool) :
    (s.takeDemandAt n c on).setsOrdered := by
  refine h.eachLane (fun k t ht => ?_) _
  split
  · exact ht.of_links (linksSame_takeDemand t n k on)
  · exact ht

theorem State.setsOrdered.takeHealthAt (h : s.setsOrdered) (n : RampNo) (c : Chan) (health : Health) :
    (s.takeHealthAt n c health).setsOrdered := by
  refine (h.modRamp n _).eachLane (fun k t ht => ?_) _
  split
  · exact ht.of_links (linksSame_takeDemandHealth t n k health)
  · exact ht

theorem State.setsOrdered.reportOn (h : s.setsOrdered) (c : Chan) (k : Option Kind) : (s.reportOn c k).setsOrdered := by
  unfold State.reportOn
  split
  · exact h.of_links ⟨rfl, rfl⟩
  · exact h.eachRamp fun n _ ht => ht.eachLane (fun j _ hu => hu.takePassage n j c) _
  · exact h.eachRamp fun n _ ht => ht.takeDemandAt n c true
  · exact h.of_links ⟨rfl, rfl⟩
  · exact h
  · exact h

theorem State.setsOrdered.reportOff (h : s.setsOrdered) (c : Chan) (k : Option Kind) : (s.reportOff c k).setsOrdered := by
  unfold State.reportOff
  split
  · exact h.eachRamp fun n _ ht => ht.takeDemandAt n c false
  · exact h.of_links ⟨rfl, rfl⟩
  all_goals exact h

theorem State.setsOrdered.releases (h : s.setsOrdered) : s.releases.setsOrdered :=
  h.eachRamp fun n _ ht => ht.tryRelease n

theorem State.setsOrdered.releaseCalled (h : s.setsOrdered) (c : Chan) : (s.releaseCalled c).setsOrdered := by
  refine h.eachRamp fun n t ht => ?_
  split
  · exact ht.tryRelease n
  · exact ht

/-! ### Presences (R44, R45, R52) -/

theorem State.setsOrdered.noteQualified (h : s.setsOrdered) (c : Chan) : (s.noteQualified c).setsOrdered := by
  unfold State.noteQualified
  split
  · exact (h.modChan c _).reportOn c _
  · exact h

theorem State.setsOrdered.tryQualify (h : s.setsOrdered) (c : Chan) : (s.tryQualify c).setsOrdered := by
  unfold State.tryQualify
  split
  · exact (h.noteQualified c).releaseCalled c
  · exact h.noteQualified c

theorem State.setsOrdered.tryStuck (h : s.setsOrdered) (c : Chan) : (s.tryStuck c).setsOrdered := by
  unfold State.tryStuck
  split
  · exact h.modChan c _
  · exact h

theorem State.setsOrdered.presenceOnset (h : s.setsOrdered) (c : Chan) : (s.presenceOnset c).setsOrdered := by
  unfold State.presenceOnset
  split
  · exact h
  · split
    · exact h.modChan c _
    · exact (h.modChan c _).tryQualify c

theorem State.setsOrdered.finishPresence (h : s.setsOrdered) (c : Chan) : (s.finishPresence c).setsOrdered := by
  unfold State.finishPresence
  split
  · exact (h.modChan c _).reportOff c _
  · split
    · exact h.modChan c _
    · exact h.modChan c _

theorem State.setsOrdered.presenceEnd (h : s.setsOrdered) (c : Chan) : (s.presenceEnd c).setsOrdered := by
  unfold State.presenceEnd
  split
  · exact h
  · split
    · exact h.modChan c _
    · exact ((h.tryQualify c).tryStuck c).finishPresence c

/-! ### Proving (R118 to R120) -/

theorem State.setsOrdered.provingInputs (h : s.setsOrdered) (g : HeadNo) (red green : Bool) :
    (s.provingInputs g red green).setsOrdered := by
  unfold State.provingInputs
  simp only []
  split
  · exact h.setHead g _
  · exact h.writeHead g _

theorem State.setsOrdered.dealWith (h : s.setsOrdered) (g : HeadNo) (f : FaultClass) (a : FaultAction) :
    (s.dealWith g f a).setsOrdered := by
  cases a with
  | lockout => exact h.enterLockout _ g f
  | lockoutAgain => exact h.lockoutNotice _ g f
  | lamp => exact h.raise (k := .lamp) g.isLt _ true
  | nothing => exact h

theorem State.setsOrdered.tryDeclare (h : s.setsOrdered) (g : HeadNo) : (s.tryDeclare g).setsOrdered := by
  unfold State.tryDeclare
  split
  · exact h
  · unfold State.declare
    split
    · exact h.setHead g _
    · exact (h.setHead g _).dealWith g _ _

theorem State.setsOrdered.declareAll (h : s.setsOrdered) : s.declareAll.setsOrdered :=
  State.setsOrdered.eachHead (s := s.markDue) (h.of_links ⟨rfl, rfl⟩) fun g _ ht => ht.tryDeclare g

theorem State.setsOrdered.readLamps (h : s.setsOrdered) : s.readLamps.setsOrdered :=
  h.eachHead fun _ _ ht => ht.writeHead _ _

/-! ### Zones (R81, R85, R93) -/

theorem State.setsOrdered.zoneChanged (h : s.setsOrdered) (z : ZoneNo) (cause : ZoneCause) :
    (s.zoneChanged z cause).setsOrdered := h.raise z.isLt _ _

theorem State.setsOrdered.defineZone (h : s.setsOrdered) (z : ZoneNo) (rec : Zone) : (s.defineZone z rec).setsOrdered := by
  unfold State.defineZone
  exact State.setsOrdered.zoneChanged (h.of_links (.of_link fun l => by simp)) z _

theorem State.setsOrdered.dissolveZone (h : s.setsOrdered) (z : ZoneNo) : (s.dissolveZone z).setsOrdered := by
  have dissolved : LinksSame s (({ s.setZone z Zone.vacantRecord with
      ramps := s.ramps.map fun r => r.leaveZone z } : State).releaseAll (.zone z)) := ⟨rfl, rfl⟩
  unfold State.dissolveZone
  exact (h.of_links dissolved).zoneChanged z .dissolved

theorem State.setsOrdered.evaluateZone (h : s.setsOrdered) (sum : Summary) (z : ZoneNo) :
    (s.evaluateZone sum z).1.setsOrdered := by
  have written (members : List (RampNo × Nat)) (old new : Zone) :
      (((s.joinAll z members).setZone z old).setZone z new).setsOrdered := h.of_links (.of_link fun l => by simp)
  unfold State.evaluateZone
  split
  · exact h
  · simp only []
    split
    · exact (written _ _ _).raise z.isLt _ _
    · exact written _ _ _

theorem State.setsOrdered.evaluateZones (h : s.setsOrdered) (sum : Summary) : (s.evaluateZones sum).1.setsOrdered := by
  have each (zones : List ZoneNo) (acc : State × List BulletinEntry) (ha : acc.1.setsOrdered) :
      (zones.foldl (evaluateNext sum) acc).1.setsOrdered := by
    induction zones generalizing acc with
    | nil => exact ha
    | cons z rest ih => exact ih _ (ha.evaluateZone sum z)
  exact each _ (s, []) h

theorem State.setsOrdered.takeSummary (h : s.setsOrdered) (sum : Summary) : (s.takeSummary sum).setsOrdered := by
  have handed (t : State) (latest : Option Bulletin) (transit : List (Summary × Bulletin)) :
      LinksSame t { t with bulletin := latest, transit := transit } := ⟨rfl, rfl⟩
  unfold State.takeSummary
  exact (h.evaluateZones sum).of_links (handed _ _ _)

/-! ### The window close (R50, R57) -/

theorem State.setsOrdered.detectorNotices (h : s.setsOrdered) (old mid : Table Channel 64) :
    (s.detectorNotices old mid).setsOrdered := by
  refine h.eachChan fun c t ht => ?_
  split
  · exact ht
  · exact ht.raise (k := .detector) c.isLt _ _

theorem State.setsOrdered.publish (h : s.setsOrdered) (w : Nat) : (s.publish w).setsOrdered := by
  have stamped (t : State) (chans : Table Channel 64) (closed : Option (Nat × Nat)) :
      LinksSame t { t with chans := chans, lastClosed := closed } := ⟨rfl, rfl⟩
  have noticed := h.detectorNotices s.chans (s.chans.map fun r => r.judged s.settings)
  unfold State.publish
  exact (noticed.of_links (stamped _ _ _)).takeSummary _

theorem State.setsOrdered.healthReports (h : s.setsOrdered) (old : Table Channel 64) :
    (s.healthReports old).setsOrdered := by
  refine h.eachChan fun c t ht => ?_
  split
  · exact ht.eachRamp fun n _ hu => hu.takeHealthAt n c _
  · exact ht

theorem State.setsOrdered.finishReadings (h : s.setsOrdered) : s.finishReadings.setsOrdered :=
  (h.eachChan fun c _ ht => (ht.noteQualified c).tryStuck c).releases

theorem State.setsOrdered.afterStart (h : s.setsOrdered) (old : Table Channel 64) (fresh : Bool) :
    (s.afterStart old fresh).setsOrdered := by
  have released := ((h.healthReports old).eachChan fun c _ ht => ht.noteQualified c).releases
  unfold State.afterStart
  simp only []
  split
  · exact released.declareAll
  · exact released

theorem State.setsOrdered.closeWindow (h : s.setsOrdered) (w : Nat) : (s.closeWindow w).setsOrdered := by
  have started (t : State) : LinksSame t t.startWindow := ⟨rfl, rfl⟩
  unfold State.closeWindow
  exact ((h.finishReadings.publish w).of_links (started _)).afterStart _ _

/-! ### Bulletins and the dwell (R61, R102, R103) -/

theorem State.setsOrdered.bulletinAt (h : s.setsOrdered) (n : RampNo) (sum : Summary) (b : Bulletin) :
    (s.bulletinAt n sum b).setsOrdered := by
  unfold State.bulletinAt
  split
  case h_1 => exact (h.modRamp n _).takeInterval n
  case h_2 =>
    refine State.setsOrdered.tryFlushExit ?_ n
    split
    · exact (h.modRamp n _).takeInterval n
    · exact h.modRamp n _
  all_goals exact h

theorem State.setsOrdered.takeDwell (h : s.setsOrdered) (n : RampNo) : (s.takeDwell n).setsOrdered := by
  unfold State.takeDwell
  split
  · exact h
  · split
    · split
      · exact h.modRamp n _
      · exact h.takeAlarm n _
    · exact h.modRamp n _

theorem State.setsOrdered.endWarn (h : s.setsOrdered) (n : RampNo) : (s.endWarn n).setsOrdered := by
  unfold State.endWarn
  split
  · exact h
  · exact h.enterStartRed n _

theorem State.setsOrdered.endStartRed (h : s.setsOrdered) (n : RampNo) : (s.endStartRed n).setsOrdered := by
  unfold State.endStartRed
  split
  · exact h
  · exact h.enterMetering n _

/-! ### Supervision and the settings (R131, R133) -/

theorem linkIndex_lt_subjects (l : Link) : linkIndex l < NoticeKind.supervision.subjects := by cases l <;> decide

theorem State.setsOrdered.tryLapse (h : s.setsOrdered) (l : Link) : (s.tryLapse l).setsOrdered := by
  have dropped (t : State) (ramps : Table Ramp 16) (zones : Table Zone 6) :
      LinksSame t { t with ramps := ramps, zones := zones } := ⟨rfl, rfl⟩
  have unsupervised := h.setLink l (c := { s.link l with supervised := false, supTimer := 0 }) (h.link l)
  unfold State.tryLapse
  split
  · exact (unsupervised.of_links (dropped _ _ _)).raise (linkIndex_lt_subjects l) _ _
  · exact h

theorem State.setsOrdered.corridorSet (h : s.setsOrdered) (a : CorridorArgs) : (s.corridorSet a).1.setsOrdered := by
  have timed (set : Settings) (loc centre : Nat) : ({ s with
      pendSettings := some set
      loc := { s.loc with supTime := loc }, centre := { s.centre with supTime := centre } } : State).setsOrdered := h
  unfold State.corridorSet
  split
  · exact h
  · exact ((timed _ _ _).tryLapse .loc).tryLapse .centre

/-! ### The plan store (R156 to R161) -/

theorem linksSame_readSlot (s : State) (k : SlotNo) : LinksSame s (s.readSlot k).1 := by
  unfold State.readSlot
  split
  · exact .refl s
  · exact .refl s
  · split
    · exact .refl s
    · exact ⟨rfl, rfl⟩

theorem linksSame_planSource (s : State) (source slot : Byte) : LinksSame s (s.planSource source slot).1 := by
  unfold State.planSource
  split
  · split
    · exact .refl s
    · exact .refl s
  · split
    · split
      · exact .refl s
      · split
        · exact .refl s
        · exact linksSame_readSlot s _
    · exact .refl s

theorem State.setsOrdered.restoreRamp (h : s.setsOrdered) (n : RampNo) (set : Settled) :
    (s.restoreRamp n set).1.setsOrdered := by
  unfold State.restoreRamp
  simp only []
  split
  · exact (h.installNew n set .restored).enterOpening n _
  · exact h.installNew n set .restored

theorem State.setsOrdered.scanImage (h : s.setsOrdered) (img : Table Byte 64) : (s.scanImage img).1.setsOrdered := by
  unfold State.scanImage
  split
  · exact h
  · split
    · exact h
    · split
      · exact h
      · split
        · exact h
        · exact h.restoreRamp _ _

theorem State.setsOrdered.scanSlot (h : s.setsOrdered) (k : SlotNo) : (s.scanSlot k).1.setsOrdered := by
  have read := h.of_links (linksSame_readSlot s k)
  unfold State.scanSlot
  split
  · next e => rwa [e] at read
  · next e =>
    rw [e] at read
    exact read.scanImage _

theorem State.setsOrdered.scanStep (h : s.setsOrdered) (k : SlotNo) : (s.scanStep k).setsOrdered := by
  have entered (report : Table (Option ReportEntry) 24) (scan : Scan) :
      ({ (s.scanSlot k).1 with report := report, scan := scan } : State).setsOrdered :=
    (h.scanSlot k).of_links ⟨rfl, rfl⟩
  unfold State.scanStep
  simp only []
  split
  · exact entered _ _
  · exact (entered _ _).raise (k := .restore) (by decide) _ _

theorem State.setsOrdered.completeStore (h : s.setsOrdered) (b : StoreBusy) (good : Bool) :
    (s.completeStore b good).setsOrdered := by
  have written : ({ s.setSlot b.slot ((s.slot b.slot).completed b good) with store := none } : State).setsOrdered :=
    h.of_links ⟨rfl, rfl⟩
  have noticed := written.raise (k := .store) b.slot.isLt (b.detail good) false
  unfold State.completeStore
  simp only []
  split
  · exact noticed.of_links ⟨rfl, rfl⟩
  all_goals exact noticed

/-! ### The links (R135 to R138) -/

theorem State.setsOrdered.overrunFrame (h : s.setsOrdered) (l : Link) : (s.overrunFrame l).setsOrdered :=
  h.setLink l (h.link l)

theorem State.setsOrdered.respond (h : s.setsOrdered) (l : Link) (code : Byte) (r : Reply) :
    (s.respond l code r).setsOrdered := h.setLink l (h.link l)

theorem State.setsOrdered.failCheck (h : s.setsOrdered) (l : Link) (code : Byte) : (s.failCheck l code).setsOrdered := by
  unfold State.failCheck
  split
  · exact h.overrunFrame l
  · exact (h.setLink l (c := { s.link l with rx := .absent, gap := 0 }) (h.link l)).respond l code _

/-! ### PERMIT and the resets (R37, R40, R147, R155) -/

theorem State.setsOrdered.losePermit (h : s.setsOrdered) : s.losePermit.setsOrdered := by
  have lost : ({ s with permit := false } : State).setsOrdered := h.of_links ⟨rfl, rfl⟩
  exact (lost.eachRamp fun n _ ht => ht.permitStops n).raise (k := .permit) (by decide) _ _

theorem State.setsOrdered.permitNotice (h : s.setsOrdered) : s.permitNotice.setsOrdered := by
  unfold State.permitNotice
  split
  · exact h
  · exact h.raise (k := .permit) (by decide) _ _

theorem State.setsOrdered.release (h : s.setsOrdered) : s.release.setsOrdered :=
  (h.of_links (.of_link s.link_released)).permitNotice

/-- A hard reset empties both sets. -/
theorem State.hardReset_setsOrdered (s : State) : s.hardReset.setsOrdered := ⟨trivial, trivial⟩

/-- A RESTART empties both sets but for a PERMIT notice. -/
theorem State.restart_setsOrdered (s : State) : s.restart.setsOrdered := by
  have emptied : s.restarted.setsOrdered := ⟨trivial, trivial⟩
  exact (emptied.of_links (.of_link (State.link_scanAfterRestart _))).permitNotice

theorem State.setsOrdered.responseSent (h : s.setsOrdered) (l : Link) : (s.responseSent l).setsOrdered := by
  unfold State.responseSent
  split
  · exact h
  · split
    · exact s.restart_setsOrdered
    · exact h.setLink l (h.link l)

/-! ### The centisecond (R1) -/

theorem LinkCtx.set_tickCs (c : LinkCtx) : c.tickCs.set = c.set := by
  unfold LinkCtx.tickCs
  split <;> rfl

theorem LinkCtx.set_tickSecond (c : LinkCtx) : c.tickSecond.set = c.set := by
  unfold LinkCtx.tickSecond
  split <;> rfl

theorem State.set_tick (s : State) (l : Link) : (s.tick.link l).set = (s.readLamps.link l).set := by
  rw [s.link_tick, atTick_same _ LinkCtx.set LinkCtx.set_tickSecond, LinkCtx.set_tickCs]

/-- A centisecond moves the sets by the reading of the lamps alone. -/
theorem State.setsOrdered.tick (h : s.setsOrdered) : s.tick.setsOrdered := h.readLamps.of_sets s.set_tick

end

end Sys2Proof.Machine
end

section
/-! The order of the pending sets through the commands, every row and the step; what a raise and a live clear do to a set in good
form (R149, R150). -/

namespace Sys2Proof.Machine

section
variable {s : State}

/-! ### Commands that leave the links -/

theorem linksSame_setSlot (s : State) (k : SlotNo) (sl : Slot) : LinksSame s (s.setSlot k sl) := ⟨rfl, rfl⟩

theorem linksSame_amend (s : State) (l : Link) (ramp : Byte) (control : Table Byte 16) (target : Byte) :
    LinksSame s (s.amend l ramp control target).1 := by
  refine State.onPlan_keeps (.refl s) fun n p => ?_
  split
  · exact .refl s
  · split
    · exact .refl s
    · exact ⟨rfl, rfl⟩

theorem linksSame_overrideCommand (s : State) (l : Link) (ramp : Byte) (rate duration : Word) :
    LinksSame s (s.overrideCommand l ramp rate duration).1 := by
  refine State.onPlan_keeps (.refl s) fun n p => ?_
  split
  · exact .refl s
  · split
    · exact .refl s
    · exact ⟨rfl, rfl⟩

theorem linksSame_endOverride (s : State) (l : Link) (ramp : Byte) : LinksSame s (s.endOverride l ramp).1 := by
  refine State.onPlan_keeps (.refl s) fun n p => ?_
  split
  · exact .refl s
  · exact ⟨rfl, rfl⟩

theorem linksSame_authorityAll (s : State) (f : Ramp → Ramp × AuthorityOutcome) : LinksSame s (s.authorityAll f).1 :=
  ⟨rfl, rfl⟩

theorem linksSame_authorityOne (s : State) (ramp : Byte) (f : Ramp → Ramp × AuthorityOutcome) :
    LinksSame s (s.authorityOne ramp f).1 := by
  unfold State.authorityOne
  split
  · exact linksSame_authorityAll s f
  · exact State.onRamp_keeps (.refl s) fun _ => ⟨rfl, rfl⟩

theorem linksSame_amendChecked (s : State) (l : Link) (z : ZoneNo) (oc gz rmax : ParamChange)
    (weights additions : List (RampNo × Nat)) : LinksSame s (s.amendChecked l z oc gz rmax weights additions).1 := by
  unfold State.amendChecked
  repeat' split
  all_goals exact ⟨rfl, rfl⟩

theorem linksSame_zoneAmend (s : State) (l : Link) (a : ZoneAmendArgs) : LinksSame s (s.zoneAmend l a).1 := by
  unfold State.zoneAmend
  split
  · exact .refl s
  · split
    · exact .refl s
    · split
      · exact .refl s
      · simp only []
        split
        · split
          · exact .refl s
          · exact linksSame_amendChecked s l _ _ _ _ _ _
        · exact .refl s

theorem linksSame_stageWrite (s : State) (sect : Byte) (bytes : Table Byte 16) : LinksSame s (s.stageWrite sect bytes).1 := by
  unfold State.stageWrite
  repeat' split
  all_goals exact ⟨rfl, rfl⟩

theorem linksSame_stageClear (s : State) : LinksSame s s.stageClear.1 := by
  unfold State.stageClear
  split
  all_goals exact ⟨rfl, rfl⟩

theorem linksSame_stageFromRamp (s : State) (ramp : Byte) : LinksSame s (s.stageFromRamp ramp).1 := by
  unfold State.stageFromRamp
  repeat' split
  all_goals exact ⟨rfl, rfl⟩

theorem linksSame_fetch (s : State) (slot : Byte) : LinksSame s (s.fetch slot).1 := by
  unfold State.fetch
  split
  · exact .refl s
  · next k _ =>
    have read := linksSame_readSlot s k
    split
    · exact .refl s
    · split
      · next e => rwa [e] at read
      · next e =>
        rw [e] at read
        exact read.trans ⟨rfl, rfl⟩

theorem linksSame_beginStore (s : State) (op : StoreOp) (k : SlotNo) (img : Table Byte 64) :
    LinksSame s (s.beginStore op k img).1 := ⟨rfl, rfl⟩

theorem linksSame_storeCommand (s : State) (slot : Byte) : LinksSame s (s.storeCommand slot).1 := by
  unfold State.storeCommand
  split
  · exact .refl s
  · split
    · exact .refl s
    · split
      · exact .refl s
      · split
        · exact .refl s
        · exact linksSame_beginStore s _ _ _

theorem linksSame_eraseCommand (s : State) (slot : Byte) : LinksSame s (s.eraseCommand slot).1 := by
  unfold State.eraseCommand
  split
  · exact .refl s
  · split
    · exact .refl s
    · split
      · exact .refl s
      · exact linksSame_beginStore s _ _ _

theorem linksSame_protect (s : State) (slot : Byte) : LinksSame s (s.protect slot).1 := by
  unfold State.protect
  split
  · exact .refl s
  · split
    · exact .refl s
    · exact linksSame_setSlot s _ _

theorem linksSame_unprotect (s : State) (l : Link) (slot : Byte) : LinksSame s (s.unprotect l slot).1 := by
  unfold State.unprotect
  split
  · exact .refl s
  · split
    · exact .refl s
    · split
      · exact linksSame_setSlot s _ _
      · exact .refl s

theorem linksSame_lookup {α : Type} (s : State) (index : Option α) (f : α → List Byte) :
    LinksSame s (s.lookup index f).1 := by
  unfold State.lookup
  split
  · exact .refl s
  · exact .refl s

/-! ### Commands that raise or edit notices -/

theorem State.setsOrdered.withPlan (h : s.setsOrdered) {n : RampNo} {source slot : Byte} {f : State → Settled → State}
    (hf : ∀ (t : State) set, t.setsOrdered → (f t set).setsOrdered) : (s.withPlan n source slot f).1.setsOrdered := by
  have sourced := h.of_links (linksSame_planSource s source slot)
  unfold State.withPlan
  split
  · next e => rwa [e] at sourced
  · next e =>
    rw [e] at sourced
    split
    · exact sourced
    · exact hf _ _ sourced

theorem State.setsOrdered.commission (h : s.setsOrdered) (ramp source slot : Byte) :
    (s.commission ramp source slot).1.setsOrdered := by
  refine State.onRamp_keeps h fun n => ?_
  split
  · exact h
  · exact h.withPlan fun t set ht => (ht.installNew n set .command).rampNotice n _

theorem State.setsOrdered.replace (h : s.setsOrdered) (l : Link) (ramp source slot : Byte) :
    (s.replace l ramp source slot).1.setsOrdered := by
  refine State.onPlan_keeps h fun n p => ?_
  split
  · exact h
  · split
    · exact h
    · exact h.withPlan fun t set ht => ht.replacePlan n p set

theorem State.setsOrdered.retire (h : s.setsOrdered) (l : Link) (ramp : Byte) : (s.retire l ramp).1.setsOrdered := by
  refine State.onPlan_keeps h fun n p => ?_
  split
  · exact h
  · cases (s.ramp n).state with
    | vacant => exact h
    | parked | lockout | opening => exact h.vacate n _
    | metering | flushing => exact h.enterClosing n _ _
    | closing => exact h.modRamp n _

theorem State.setsOrdered.openCommand (h : s.setsOrdered) (l : Link) (ramp : Byte) :
    (s.openCommand l ramp).1.setsOrdered := by
  refine State.onPlan_keeps h fun n p => ?_
  cases (s.ramp n).state with
  | vacant | closing | lockout => exact h
  | opening | metering | flushing => simp only []; split <;> exact h
  | parked =>
    simp only []
    split
    · exact h
    · split
      · exact h
      · exact (h.enterOpening n p).rampNotice n _

theorem State.setsOrdered.closeCommand (h : s.setsOrdered) (l : Link) (ramp : Byte) :
    (s.closeCommand l ramp).1.setsOrdered := by
  refine State.onPlan_keeps h fun n p => ?_
  split
  · exact h
  · split
    · exact h
    · cases (s.ramp n).state with
      | vacant | lockout | parked | closing => exact h
      | opening => exact (h.leaveRunning n).park n _ _
      | metering | flushing => exact h.enterClosing n _ _

theorem State.setsOrdered.clearLockout (h : s.setsOrdered) (l : Link) (ramp : Byte) :
    (s.clearLockout l ramp).1.setsOrdered := by
  refine State.onPlan_keeps h fun n p => ?_
  split
  · exact h
  · split
    · exact h
    · split
      · exact h
      · split
        · exact h.vacate n _
        · exact h.park n _ _

theorem State.setsOrdered.defineChecked (h : s.setsOrdered) (l : Link) (z : ZoneNo) (dets : List Chan) (oc gz rmax : Nat)
    (members : List (RampNo × Nat)) : (s.defineChecked l z dets oc gz rmax members).1.setsOrdered := by
  unfold State.defineChecked
  repeat' split
  case isFalse.isFalse.isFalse.isFalse.isFalse => exact h.defineZone z _
  all_goals exact h

theorem State.setsOrdered.zoneDefine (h : s.setsOrdered) (l : Link) (a : ZoneDefineArgs) :
    (s.zoneDefine l a).1.setsOrdered := by
  unfold State.zoneDefine
  split
  · exact h
  · split
    · exact h
    · split
      · split
        · exact h
        · exact h.defineChecked l _ _ _ _ _ _
      · exact h

theorem State.setsOrdered.zoneDissolve (h : s.setsOrdered) (l : Link) (zone : Byte) :
    (s.zoneDissolve l zone).1.setsOrdered := by
  unfold State.zoneDissolve
  split
  · exact h
  · split
    · exact h
    · split
      · exact h
      · exact h.dissolveZone _

theorem State.setsOrdered.clearAllNotices (h : s.setsOrdered) (l : Link) : (s.clearAllNotices l).1.setsOrdered :=
  h.setLink l trivial

/-- Records taken out of a set leave it in order (R153). -/
theorem State.setsOrdered.clearNotice (h : s.setsOrdered) (l : Link) (kind subject : Byte) :
    (s.clearNotice l kind subject).1.setsOrdered := by
  unfold State.clearNotice
  split
  · exact h
  · split
    · exact h.setLink l (noticesOrdered_filter (h.link l))
    · exact h

theorem State.setsOrdered.maskNotices (h : s.setsOrdered) (l : Link) (kinds : List Byte) :
    (s.maskNotices l kinds).1.setsOrdered := by
  unfold State.maskNotices
  split
  · exact h
  · split
    · exact h
    · exact h.setLink l (h.link l)

/-! ### A frame (R135 to R138) -/

theorem State.setsOrdered.frameSame (h : s.setsOrdered) {l : Link} {code : Byte} {run : State → State × Reply}
    (hr : ∀ t : State, LinksSame t (run t).1) : (s.frame l code run).setsOrdered := h.frame fun t ht => ht.of_links (hr t)

theorem State.setsOrdered.runCommand (h : s.setsOrdered) (i : Instr) : ∃ t, runCommand i s = .next t ∧ t.setsOrdered := by
  cases i
  case commission l r a b => exact ⟨_, rfl, h.frame fun t ht => ht.commission r a b⟩
  case replacePlan l r a b => exact ⟨_, rfl, h.frame fun t ht => ht.replace l r a b⟩
  case amend l r c v => exact ⟨_, rfl, h.frameSame fun t => linksSame_amend t l r c v⟩
  case retire l r => exact ⟨_, rfl, h.frame fun t ht => ht.retire l r⟩
  case openRamp l r => exact ⟨_, rfl, h.frame fun t ht => ht.openCommand l r⟩
  case closeRamp l r => exact ⟨_, rfl, h.frame fun t ht => ht.closeCommand l r⟩
  case clearLockout l r => exact ⟨_, rfl, h.frame fun t ht => ht.clearLockout l r⟩
  case overrideRate l r v d => exact ⟨_, rfl, h.frameSame fun t => linksSame_overrideCommand t l r v d⟩
  case endOverride l r => exact ⟨_, rfl, h.frameSame fun t => linksSame_endOverride t l r⟩
  case takeAuthority | yieldAuthority => exact ⟨_, rfl, h.frameSame fun t => linksSame_authorityOne t _ _⟩
  case takeAuthorityAll | yieldAuthorityAll => exact ⟨_, rfl, h.frameSame fun t => linksSame_authorityAll t _⟩
  case lookupRampStatus | lookupRampPlan | lookupChannel | lookupChannelSummary | lookupZone | lookupBulletinEntry |
      lookupSlotDirectory | lookupCorridorSettings | lookupLinkStatus | lookupRestoreReport =>
    exact ⟨_, rfl, h.frameSame fun t => linksSame_lookup t _ _⟩
  case zoneDefine l a => exact ⟨_, rfl, h.frame fun t ht => ht.zoneDefine l a⟩
  case zoneAmend l a => exact ⟨_, rfl, h.frameSame fun t => linksSame_zoneAmend t l a⟩
  case zoneDissolve l z => exact ⟨_, rfl, h.frame fun t ht => ht.zoneDissolve l z⟩
  case corridorSet l a => exact ⟨_, rfl, h.frame fun t ht => ht.corridorSet a⟩
  case stageWrite l k b => exact ⟨_, rfl, h.frameSame fun t => linksSame_stageWrite t k b⟩
  case stageClear l x => exact ⟨_, rfl, h.frameSame linksSame_stageClear⟩
  case stageFromRamp l r => exact ⟨_, rfl, h.frameSame fun t => linksSame_stageFromRamp t r⟩
  case storeSlot l x => exact ⟨_, rfl, h.frameSame fun t => linksSame_storeCommand t x⟩
  case fetchSlot l x => exact ⟨_, rfl, h.frameSame fun t => linksSame_fetch t x⟩
  case eraseSlot l x => exact ⟨_, rfl, h.frameSame fun t => linksSame_eraseCommand t x⟩
  case protectSlot l x => exact ⟨_, rfl, h.frameSame fun t => linksSame_protect t x⟩
  case unprotectSlot l x => exact ⟨_, rfl, h.frameSame fun t => linksSame_unprotect t l x⟩
  case noticeClear l k x =>
    refine ⟨_, rfl, h.frame fun t ht => ?_⟩
    split
    · exact ht.clearAllNotices l
    · exact ht.clearNotice l k x
  case noticeClearAll l x => exact ⟨_, rfl, h.frame fun t ht => ht.clearAllNotices l⟩
  case noticeMask l ks => exact ⟨_, rfl, h.frame fun t ht => ht.maskNotices l ks⟩
  case restart l x =>
    refine ⟨_, rfl, h.frameSame fun t => ?_⟩
    cases l
    · exact ⟨rfl, rfl⟩
    · exact .refl t
  case noticeQuery | unknownCommand => exact ⟨_, rfl, h.frameSame LinksSame.refl⟩
  all_goals exact ⟨_, rfl, h⟩

theorem State.setsOrdered.execCommand (h : s.setsOrdered) {i : Instr} (e : Machine.exec i s = Machine.runCommand i s) :
    ∃ t, Machine.exec i s = .next t ∧ t.setsOrdered := by
  rw [e]
  exact h.runCommand i

theorem State.setsOrdered.takePayload (h : s.setsOrdered) (l : Link) (payload : List Byte) :
    ∃ t, takePayload l payload s = .next t ∧ t.setsOrdered := by
  unfold Machine.takePayload
  split
  · exact h.runCommand _
  · exact ⟨_, rfl, h.frameSame LinksSame.refl⟩
  · exact ⟨_, rfl, h.frameSame LinksSame.refl⟩

theorem State.setsOrdered.byteReceived (h : s.setsOrdered) (l : Link) (b : Byte) :
    ∃ t, execByteReceived l b s = .next t ∧ t.setsOrdered := by
  unfold execByteReceived
  split
  · exact ⟨s, rfl, h⟩
  · split
    · exact ⟨_, rfl, h.setLink l (h.link l)⟩
    · unfold completeFrame
      split
      · exact ⟨_, rfl, h.overrunFrame l⟩
      · split
        · exact h.takePayload l _
        · exact ⟨_, rfl, h.failCheck l _⟩

/-! ### Every row and the step -/

theorem State.setsOrdered.running (h : s.setsOrdered) {f : State → State} (hf : (f s).setsOrdered) :
    (s.running f).setsOrdered := by
  unfold State.running
  split
  · exact h
  · exact hf

/-- A row that is taken when its condition holds. -/
theorem State.setsOrdered.when (h : s.setsOrdered) {p : State → Prop} [∀ t, Decidable (p t)] {f : State → State}
    (hf : (f s).setsOrdered) : (s.running fun t => if p t then f t else t).setsOrdered := by
  refine h.running ?_
  split
  · exact hf
  · exact h

theorem State.setsOrdered.exec (h : s.setsOrdered) (i : Instr) : ∃ t, exec i s = .next t ∧ t.setsOrdered := by
  cases i
  case byteReceived l b => exact h.byteReceived l b
  case hardReset =>
    refine ⟨_, rfl, ?_⟩
    split
    · exact h
    · exact s.hardReset_setsOrdered
  case resetRelease =>
    refine ⟨_, rfl, ?_⟩
    split
    · exact h.release
    · exact h
  case takeoverAssert | takeoverWithdraw => exact ⟨_, rfl, h.of_links ⟨rfl, rfl⟩⟩
  case permitLoss =>
    refine ⟨_, rfl, ?_⟩
    split
    · exact h.of_links ⟨rfl, rfl⟩
    · split
      · exact h.losePermit
      · exact h
  case permitReturn =>
    have returned : ({ s with permit := true } : State).setsOrdered := h.of_links ⟨rfl, rfl⟩
    refine ⟨_, rfl, ?_⟩
    split
    · exact returned
    · split
      · exact h
      · exact returned.liveClear _ _
  case presenceOnset c => exact ⟨_, rfl, h.presenceOnset c⟩
  case presenceEnd c => exact ⟨_, rfl, h.presenceEnd c⟩
  case presenceQualified c => exact ⟨_, rfl, h.running (h.tryQualify c)⟩
  case stuckOn c => exact ⟨_, rfl, h.running (h.tryStuck c)⟩
  case provingInputChange g red green => exact ⟨_, rfl, h.provingInputs g red green⟩
  case provingFaultDeclared g => exact ⟨_, rfl, h.running (h.tryDeclare g)⟩
  case flushHoldReached n => exact ⟨_, rfl, h.running (h.tryFlushExit n)⟩
  case settleComplete n => exact ⟨_, rfl, h.running (h.trySettle n)⟩
  case emptyJudgement n => exact ⟨_, rfl, h.running ((h.reportEmpty n).takeEmpty n)⟩
  case supervisionLapse l => exact ⟨_, rfl, h.running (h.tryLapse l)⟩
  case responseSent l => exact ⟨_, rfl, h.running (h.responseSent l)⟩
  case frameCheckFailure l code => exact ⟨_, rfl, h.running (h.failCheck l code)⟩
  case frameOverrun l => exact ⟨_, rfl, h.when (h.overrunFrame l)⟩
  case receiveGapTimeout l =>
    exact ⟨_, rfl, h.when (f := fun t => t.setLink l (t.link l).drop) (h.setLink l (h.link l))⟩
  case windowTimerExpiry => exact ⟨_, rfl, h.when (h.closeWindow _)⟩
  case syncEdge => exact ⟨_, rfl, h.when (h.closeWindow _)⟩
  case windowSelfClose => exact ⟨_, rfl, h.when ((h.closeWindow _).raise (k := .sync) (by decide) _ _)⟩
  case bulletinArrival =>
    have taken (rest : List (Summary × Bulletin)) : ({ s with transit := rest } : State).setsOrdered :=
      h.of_links ⟨rfl, rfl⟩
    refine ⟨_, rfl, h.running ?_⟩
    split
    · exact h
    · exact (taken _).eachRamp fun n _ ht => ht.bulletinAt n _ _
  case warnTimerExpiry n => exact ⟨_, rfl, h.when (h.endWarn n)⟩
  case startRedExpiry n => exact ⟨_, rfl, h.when (h.endStartRed n)⟩
  case queueAlarm n => exact ⟨_, rfl, h.when (h.takeDwell n)⟩
  case laneReady n k => exact ⟨_, rfl, h.when (h.laneBecomesReady n k)⟩
  case spacingExpiry n k => exact ⟨_, rfl, h.when (h.tryRelease n)⟩
  case greenEnd n k => exact ⟨_, rfl, h.when (h.endGreens n k)⟩
  case closeGreenEnd n => exact ⟨_, rfl, h.when (h.endClosing n)⟩
  case overrideExpiry n => exact ⟨_, rfl, h.when (h.modRamp n _)⟩
  case restoreScanSlot =>
    refine ⟨_, rfl, h.running ?_⟩
    split
    · exact h.scanStep _
    · exact h
    · exact h
  case storeCompletion good =>
    refine ⟨_, rfl, h.running ?_⟩
    split
    · exact h.completeStore _ good
    · exact h
  all_goals exact h.execCommand rfl

theorem State.setsOrdered.of_fields (h : s.setsOrdered) (pending : List Instr) (tieCount : Nat) :
    ({ s with pending := pending, tieCount := tieCount } : State).setsOrdered := h.of_links ⟨rfl, rfl⟩

theorem State.setsOrdered.idle (h : s.setsOrdered) : ∃ t, idle s = .next t ∧ t.setsOrdered := by
  unfold Machine.idle
  split
  · exact ⟨s, rfl, h⟩
  · split
    · exact ⟨_, rfl, h.tick⟩
    · exact h.exec _
    · exact (h.of_fields _ _).exec _

theorem State.setsOrdered.step (h : s.setsOrdered) : ∃ t, step s = .next t ∧ t.setsOrdered := by
  unfold Machine.step
  split
  · exact (h.of_fields _ _).exec _
  · exact h.idle

end

/-! ### What a raise and a live clear do to one set (R149, R150) -/

section
variable {k : NoticeKind} {subject : Nat} {d : Detail} {live : Bool}

/-- Records after one of an ordered set have another kind and subject. -/
theorem noticesOrdered_others {n : Notice} {rest : List Notice} (h : noticesOrdered (n :: rest)) :
    ∀ r ∈ rest, ¬ (r.kind = n.kind ∧ r.subject = n.subject) := by
  rintro r hr ⟨hk, hs⟩
  have before := h.2.1 r hr
  rw [hk, hs] at before
  exact Nat.lt_irrefl _ before

/-- A record whose key is below those of an ordered set's records is not the record of any of them. -/
theorem not_mem_of_noticeKey_lt {n : Notice} {rest : List Notice} (h : noticesOrdered (n :: rest))
    (lt : noticeKey k subject < noticeKey n.kind n.subject) : ∀ r ∈ n :: rest, ¬ (r.kind = k ∧ r.subject = subject) := by
  rintro r hr ⟨rfl, rfl⟩
  rcases List.mem_cons.1 hr with rfl | hr
  · exact Nat.lt_irrefl _ lt
  · exact Nat.lt_irrefl _ (Nat.lt_trans lt (h.2.1 r hr))

/-- A raise for a kind and subject that the set does not hold adds an unlatched record (R149). -/
theorem mem_raiseInto_absent {set : List Notice} (absent : ∀ r ∈ set, ¬ (r.kind = k ∧ r.subject = subject)) (r : Notice) :
    r ∈ raiseInto k subject d live set ↔ r = ⟨k, subject, false, live, d⟩ ∨ r ∈ set := by
  induction set with
  | nil => simp [raiseInto]
  | cons n rest ih =>
    obtain ⟨hn, hrest⟩ := List.forall_mem_cons.1 absent
    rw [raiseInto, if_neg hn]
    split
    · exact List.mem_cons
    · rw [List.mem_cons, List.mem_cons, ih hrest, or_left_comm]

/-- A raise for the record that an ordered set holds updates it, latched, and moves no other (R149). -/
theorem mem_raiseInto_present {set : List Notice} (ordered : noticesOrdered set) {old : Notice} (held : old ∈ set)
    (hk : old.kind = k) (hs : old.subject = subject) (r : Notice) :
    r ∈ raiseInto k subject d live set ↔
      r = ⟨k, subject, true, live, d⟩ ∨ r ∈ set ∧ ¬ (r.kind = k ∧ r.subject = subject) := by
  induction set with
  | nil => cases held
  | cons n rest ih =>
    rw [raiseInto]
    split
    · next e =>
      obtain ⟨rfl, rfl⟩ := e
      have others := noticesOrdered_others ordered
      rw [List.mem_cons, List.mem_cons]
      constructor
      · rintro (rfl | hr)
        · exact .inl rfl
        · exact .inr ⟨.inr hr, others r hr⟩
      · rintro (rfl | ⟨rfl | hr, ne⟩)
        · exact .inl rfl
        · exact absurd ⟨rfl, rfl⟩ ne
        · exact .inr hr
    · next ne =>
      have below : ¬ noticeKey k subject < noticeKey n.kind n.subject := fun lt =>
        not_mem_of_noticeKey_lt ordered lt old held ⟨hk, hs⟩
      have behind : old ∈ rest := (List.mem_cons.1 held).resolve_left fun e => ne (e ▸ ⟨hk, hs⟩)
      rw [if_neg below, List.mem_cons, List.mem_cons, ih ordered.2.2 behind]
      constructor
      · rintro (rfl | rfl | ⟨hr, other⟩)
        · exact .inr ⟨.inl rfl, ne⟩
        · exact .inl rfl
        · exact .inr ⟨.inr hr, other⟩
      · rintro (rfl | ⟨rfl | hr, other⟩)
        · exact .inr (.inl rfl)
        · exact .inl rfl
        · exact .inr (.inr ⟨hr, other⟩)

/-- A live clear takes the live flag off the record of its kind and subject and moves no other (R150). -/
theorem mem_liveClearIn_iff (set : List Notice) (r : Notice) :
    r ∈ liveClearIn k subject set ↔
      (r ∈ set ∧ ¬ (r.kind = k ∧ r.subject = subject)) ∨
        ∃ old ∈ set, old.kind = k ∧ old.subject = subject ∧ r = { old with live := false } := by
  rw [liveClearIn, List.mem_map]
  constructor
  · rintro ⟨old, hold, rfl⟩
    split
    · next e => exact .inr ⟨old, hold, e.1, e.2, rfl⟩
    · next ne => exact .inl ⟨hold, ne⟩
  · rintro (⟨hr, ne⟩ | ⟨old, hold, hk, hs, rfl⟩)
    · exact ⟨r, hr, if_neg ne⟩
    · exact ⟨old, hold, if_pos ⟨hk, hs⟩⟩

end

/-- Settles O9: every row and the centisecond move the sets by raises within a kind's range, live clears, removals and resets alone;
a raise and a live clear are read off the recursion over an ordered set. -/
theorem setsOrderedKept : Obligations.SetsOrderedKept := by
  refine ⟨fun s t h hstep => ?_, fun s k subject d live l => ?_, fun k subject d live set ordered => ?_⟩
  · obtain ⟨u, hu, ho⟩ := h.step
    obtain rfl : u = t := Host.Outcome.next.inj (hu.symm.trans hstep)
    exact ho
  · rw [State.link_raise, State.link_liveClear]
    exact ⟨rfl, rfl⟩
  · exact ⟨mem_raiseInto_absent, fun old held hk hs => mem_raiseInto_present ordered held hk hs, mem_liveClearIn_iff set⟩

end Sys2Proof.Machine
end

section
/-! NOTICE CLEAR (R153): the record of a kind and subject, or every record, taken from the sending link's pending set. -/

namespace Sys2Proof.Machine

theorem State.clearNotice_subject {t : State} {kind subject : Byte} {k : NoticeKind} (l : Link) (h : kindArg kind = some k)
    (out : k.subjects ≤ subject.toNat) : t.clearNotice l kind subject = (t, .refuse .range) := by
  simp only [State.clearNotice, h, if_neg (Nat.not_lt.2 out)]

theorem State.clearNotice_kind {t : State} {kind : Byte} (l : Link) (subject : Byte) (h : kindArg kind = none) :
    t.clearNotice l kind subject = (t, .refuse .range) := by
  simp only [State.clearNotice, h]

/-- A command that edits the sending link's set, once answered: that set edited, the other link's as the good frame left it. -/
theorem State.frame_modSet {s : State} {l : Link} {code : Byte} {run : State → State × Reply} {f : List Notice → List Notice}
    (ht : s.takes l) (e : run (s.goodFrame l) = ((s.goodFrame l).modSet l f, .done)) :
    ((s.frame l code run).link l).set = f (s.setAfterFrame l l) ∧
      (∀ j, j ≠ l → ((s.frame l code run).link j).set = s.setAfterFrame l j) ∧
      Answered s (s.frame l code run) l code .done [] ∧ OnlyLinks s (s.frame l code run) := by
  rw [State.frame_eq ht e]
  have edited (j : Link) : ((((s.goodFrame l).modSet l f).respond l code .done).link j).set =
      if j = l then f (s.setAfterFrame l l) else s.setAfterFrame l j := by
    rw [State.set_respond, State.set_modSet, State.set_goodFrame, State.set_goodFrame]
  exact ⟨(edited l).trans (if_pos rfl), fun j ne => (edited j).trans (if_neg ne),
    answered_of_setsOnly (State.modSet_setsOnly _ l f) code .done, (State.modSet_onlyLinks _ l f).framed code .done⟩

/-- Settles O51: a kind and subject in range, and ALL, edit the set under the answer; what is out of range is refused. -/
theorem noticesCleared : Obligations.NoticesCleared := by
  intro s l kind subject unused ht
  refine ⟨fun k hk hs => ⟨_, exec_noticeClear l kind subject s, State.frame_modSet ht ?_⟩, fun bad => ?_,
    ⟨_, rfl, State.frame_modSet (f := fun _ => []) ht rfl⟩⟩
  · exact (if_neg (kindArg_ne_all hk)).trans (State.clearNotice_some hk hs)
  · refine ⟨_, exec_noticeClear l kind subject s, State.frame_refused ht ?_⟩
    obtain ⟨k, hk, out⟩ | ⟨hk, notAll⟩ := bad
    · exact (if_neg (kindArg_ne_all hk)).trans (State.clearNotice_subject l hk out)
    · exact (if_neg notAll).trans (State.clearNotice_kind l subject hk)

end Sys2Proof.Machine
end

section
/-! The front of the queue, and the state after reset. -/

namespace Sys2Proof.Machine

/-- Settles O1: the step looks at the queue first. -/
theorem stepTakesFront : Obligations.StepTakesFront := by
  intro c rest s h
  simp only [step, h]

/-! ### The state after reset (R1, R22, R40, R121) -/

theorem State.reset_ramp (n : RampNo) : State.reset.ramp n = Ramp.vacantRecord := Table.get_fill _ _

theorem State.reset_head (h : HeadNo) : State.reset.head h = Head.resetContext := Table.get_fill _ _

theorem State.reset_zone (z : ZoneNo) : State.reset.zone z = Zone.vacantRecord := Table.get_fill _ _

/-- Every head is DARK, every ramp VACANT, and RESET is not held. -/
theorem State.reset_guarded : State.reset.Guarded where
  green h lit := by
    rw [State.reset_head] at lit
    cases lit
  permit n running := by
    rw [State.reset_ramp] at running
    cases running
  held low := by cases low
  window low := by cases low

/-- Each set holds the PERMIT record alone. -/
theorem State.reset_setsOrdered : State.reset.setsOrdered := by
  have alone : noticesOrdered [Notice.permitAbsent] :=
    ⟨Nat.lt_succ_self 0, fun _ mem => absurd mem List.not_mem_nil, trivial⟩
  exact ⟨alone, alone⟩

/-- The values of R3 have the shape of a ramp record. -/
theorem Ramp.vacantRecord_shaped : Ramp.vacantRecord.Shaped where
  vacant _ := rfl
  planned notVacant := absurd rfl notVacant
  opening := by decide
  closing := by decide
  settled _ plan := by cases plan
  amended _ _ amendment := by cases amendment
  pending amended := absurd rfl amended
  present effective := by cases effective

theorem State.reset_shaped : State.reset.Shaped where
  ramps n := State.reset_ramp n ▸ Ramp.vacantRecord_shaped
  members z m mem := by
    rw [State.reset_zone] at mem
    exact absurd mem List.not_mem_nil
  additions z m mem := by
    rw [State.reset_zone] at mem
    exact absurd mem List.not_mem_nil

/-- Settles O11: the three invariants, each read off the records of the reset. -/
theorem invariantsAtReset : Obligations.InvariantsAtReset :=
  ⟨State.reset_guarded, State.reset_setsOrdered, State.reset_shaped⟩

end Sys2Proof.Machine
end

section
/-! The stage and the slots (R156 to R160): what each block answers by the busy mark and the slot, and the commands in their order of
checks. -/

namespace Sys2Proof.Machine

/-! ### A command of the plan store, answered -/

section
variable {s : State} {l : Link} {code : Byte} {run : State → State × Reply} {edit : State → State} {r : Reply}

/-- A block that edits the state and leaves the links: the state edited, but for the links, under the answer. -/
theorem State.frame_edited (ht : s.takes l) (e : run (s.goodFrame l) = (edit (s.goodFrame l), r))
    (apart : ∀ (t : State) (loc centre : LinkCtx),
      edit { t with loc := loc, centre := centre } = { edit t with loc := loc, centre := centre }) :
    s.frame l code run = { edit s with loc := (s.frame l code run).loc, centre := (s.frame l code run).centre } ∧
      Answered s (s.frame l code run) l code r.status r.result ∧ NoNotice s (s.frame l code run) l := by
  have moved : edit (s.goodFrame l) = { edit s with loc := (s.goodFrame l).loc, centre := (s.goodFrame l).centre } :=
    (congrArg edit (s.goodFrame_form l)).trans (apart s _ _)
  have same : ∀ k, (edit (s.goodFrame l)).link k = (s.goodFrame l).link k := fun k => by rw [moved]; cases k <;> rfl
  rw [State.frame_eq ht e]
  refine ⟨?_, answered_of_setsOnly (.of_links same) code r, noNotice_of_sets (fun k => by rw [same]) code r⟩
  rw [State.respond_form, moved]

end

/-! ### The busy mark of the store and the stage (R156 to R159) -/

theorem State.storeBusy_iff (s : State) : s.storeBusy = true ↔ s.store ≠ none ∨ s.scan.running = true := by
  simp [State.storeBusy, Option.isSome_iff_ne_none]

theorem State.storeBusy_free {s : State} (h : s.store = none) (hs : s.scan.running = false) : s.storeBusy = false := by
  simp [State.storeBusy, h, hs]

@[simp] theorem State.storeBusy_goodFrame (s : State) (l : Link) : (s.goodFrame l).storeBusy = s.storeBusy := by
  simp [State.storeBusy]

@[simp] theorem State.guardBusy_goodFrame (s : State) (l : Link) (k : SlotNo) :
    (s.goodFrame l).guardBusy k = s.guardBusy k := by
  simp [State.guardBusy, State.slotInFlight]

theorem byteBelow_none {n : Nat} {b : Byte} (h : n ≤ b.toNat) : (byteBelow n b : Option (Fin n)) = none :=
  dif_neg (Nat.not_lt.2 h)

/-! ### The blocks of the stage (R156) -/

section
variable {s : State} {sect ramp : Byte} {bytes : Table Byte 16} {j : Fin 4} {n : RampNo}

theorem State.stageWrite_range (h : 3 < sect.toNat) : s.stageWrite sect bytes = (s, .refuse .range) := by
  simp only [State.stageWrite, byteBelow_none h]

theorem State.stageWrite_busy (hj : sect.toNat = j.val) (h : s.storeBusy = true) :
    s.stageWrite sect bytes = (s, .refuse .busy) := by
  simp only [State.stageWrite, byteBelow_some hj, if_pos h]

theorem State.stageWrite_staged (hj : sect.toNat = j.val) (h : s.storeBusy = false) (full : s.stage.get j ≠ none) :
    s.stageWrite sect bytes = (s, .refuse .staged) := by
  simp [State.stageWrite, byteBelow_some hj, h, Option.isSome_iff_ne_none, full]

theorem State.stageWrite_empty (hj : sect.toNat = j.val) (h : s.storeBusy = false) (empty : s.stage.get j = none) :
    s.stageWrite sect bytes = ({ s with stage := s.stage.set j (some bytes) }, .done) := by
  simp [State.stageWrite, byteBelow_some hj, h, empty]

theorem State.stageClear_busy (h : s.storeBusy = true) : s.stageClear = (s, .refuse .busy) := if_pos h

theorem State.stageClear_free (h : s.storeBusy = false) :
    s.stageClear = ({ s with stage := Table.fill 4 none }, .done) := if_neg (by simp [h])

theorem State.stageFromRamp_range (h : 15 < ramp.toNat) : s.stageFromRamp ramp = (s, .refuse .range) := by
  simp only [State.stageFromRamp, rampArg, byteBelow_none h]

theorem State.stageFromRamp_busy (hn : rampArg ramp = some n) (h : s.storeBusy = true) :
    s.stageFromRamp ramp = (s, .refuse .busy) := by
  simp only [State.stageFromRamp, hn, if_pos h]

theorem State.stageFromRamp_vacant (hn : rampArg ramp = some n) (h : s.storeBusy = false)
    (vacant : (s.ramp n).state = .vacant) : s.stageFromRamp ramp = (s, .refuse .absent) := by
  simp [State.stageFromRamp, hn, h, vacant]

theorem State.stageFromRamp_plan {p : Plan} (hn : rampArg ramp = some n) (h : s.storeBusy = false)
    (notVacant : (s.ramp n).state ≠ .vacant) (hp : (s.ramp n).plan = some p) :
    s.stageFromRamp ramp = ({ s with stage := fullStage p.sections }, .done) := by
  simp [State.stageFromRamp, hn, h, hp]

end

/-- Each section of an installed plan is its sixteen bytes of the plan image table (R148). -/
theorem Plan.section_cells (p : Plan) (i : Fin 4) : (p.sections.get i).cells = ((imageOf p).drop (16 * i.val)).take 16 := by
  rw [← p.image_eq, p.image_cells]
  match i with
  | 0 => rfl
  | 1 => rfl
  | 2 => rfl
  | 3 => rfl

/-! ### The stage commands -/

theorem exec_stageWrite (l : Link) (sect : Byte) (bytes : Table Byte 16) (s : State) :
    exec (.stageWrite l sect bytes) s = .next (s.frame l 0x40 fun t => t.stageWrite sect bytes) := rfl

theorem exec_stageClear (l : Link) (unused : Byte) (s : State) :
    exec (.stageClear l unused) s = .next (s.frame l 0x41 fun t => t.stageClear) := rfl

theorem exec_stageFromRamp (l : Link) (ramp : Byte) (s : State) :
    exec (.stageFromRamp l ramp) s = .next (s.frame l 0x42 fun t => t.stageFromRamp ramp) := rfl

/-- Settles O45: the range refusals first, then each block by the busy mark. -/
theorem stageCommandsTaken : Obligations.StageCommandsTaken := by
  refine ⟨fun s l sect ramp bytes ht => ⟨fun out => ?_, fun out => ?_⟩,
    fun s l sect unused ramp bytes j n ht hj hn => ⟨fun store scan => ?_, fun busy => ?_⟩⟩
  · exact ⟨_, exec_stageWrite l sect bytes s, State.frame_refused ht (State.stageWrite_range out)⟩
  · exact ⟨_, exec_stageFromRamp l ramp s, State.frame_refused ht (State.stageFromRamp_range out)⟩
  · have free : (s.goodFrame l).storeBusy = false := (s.storeBusy_goodFrame l).trans (State.storeBusy_free store scan)
    refine ⟨fun empty => ⟨_, exec_stageWrite l sect bytes s, ?_⟩, fun full => ⟨_, exec_stageWrite l sect bytes s, ?_⟩,
      ⟨_, exec_stageClear l unused s, ?_⟩, fun p notVacant hp => ⟨_, exec_stageFromRamp l ramp s, ?_⟩,
      fun vacant => ⟨_, exec_stageFromRamp l ramp s, ?_⟩⟩
    · exact State.frame_edited (r := .done) (edit := fun t => { t with stage := t.stage.set j (some bytes) }) ht
        (State.stageWrite_empty hj free (by simpa using empty)) fun _ _ _ => rfl
    · exact State.frame_refused ht (State.stageWrite_staged hj free (by simpa using full))
    · exact State.frame_edited (r := .done) (edit := fun t => { t with stage := Table.fill 4 none }) ht
        (State.stageClear_free free) fun _ _ _ => rfl
    · obtain ⟨form, answered, quiet⟩ := State.frame_edited (code := 0x42)
        (run := fun t => t.stageFromRamp ramp) (r := .done) (edit := fun t => { t with stage := fullStage p.sections }) ht
        (State.stageFromRamp_plan hn free (by simpa using notVacant) (by simpa using hp)) fun _ _ _ => rfl
      have stage := congrArg State.stage form
      refine ⟨?_, fun i => ⟨?_, p.section_cells i⟩, answered, quiet⟩
      · rw [stage]
        exact form
      · rw [stage]
        exact Table.get_map _ _ _
    · exact State.frame_refused ht (State.stageFromRamp_vacant hn free (by simpa using vacant))
  · have busy' : (s.goodFrame l).storeBusy = true := (s.storeBusy_goodFrame l).trans (s.storeBusy_iff.2 busy)
    exact ⟨⟨_, exec_stageWrite l sect bytes s, State.frame_refused ht (State.stageWrite_busy hj busy')⟩,
      ⟨_, exec_stageClear l unused s, State.frame_refused ht (State.stageClear_busy busy')⟩,
      ⟨_, exec_stageFromRamp l ramp s, State.frame_refused ht (State.stageFromRamp_busy hn busy')⟩⟩

/-! ### The blocks of the slots (R157, R158) -/

section
variable {s : State} {slot : Byte} {k : SlotNo}

theorem slotArg_none (h : 23 < slot.toNat) : slotArg slot = none := byteBelow_none h

theorem State.storeCommand_range (h : slotArg slot = none) : s.storeCommand slot = (s, .refuse .range) := by
  simp only [State.storeCommand, h]

theorem State.storeCommand_busy (hk : slotArg slot = some k) (h : s.storeBusy = true) :
    s.storeCommand slot = (s, .refuse .busy) := by
  simp only [State.storeCommand, hk, if_pos h]

theorem State.storeCommand_incomplete (hk : slotArg slot = some k) (h : s.storeBusy = false)
    (gaps : stageImage s.stage = none) : s.storeCommand slot = (s, .refuse .incomplete) := by
  simp [State.storeCommand, hk, h, gaps]

theorem State.storeCommand_guarded {img : Table Byte 64} (hk : slotArg slot = some k) (h : s.storeBusy = false)
    (full : stageImage s.stage = some img) (hg : (s.slot k).guarded = true) :
    s.storeCommand slot = (s, .refuse .guarded) := by
  simp [State.storeCommand, hk, h, full, hg]

theorem State.storeCommand_begins {img : Table Byte 64} (hk : slotArg slot = some k) (h : s.storeBusy = false)
    (full : stageImage s.stage = some img) (hg : (s.slot k).guarded = false) :
    s.storeCommand slot = s.beginStore .store k img := by
  simp [State.storeCommand, hk, h, full, hg]

theorem State.eraseCommand_range (h : slotArg slot = none) : s.eraseCommand slot = (s, .refuse .range) := by
  simp only [State.eraseCommand, h]

theorem State.eraseCommand_busy (hk : slotArg slot = some k) (h : s.storeBusy = true) :
    s.eraseCommand slot = (s, .refuse .busy) := by
  simp only [State.eraseCommand, hk, if_pos h]

theorem State.eraseCommand_guarded (hk : slotArg slot = some k) (h : s.storeBusy = false)
    (hg : (s.slot k).guarded = true) : s.eraseCommand slot = (s, .refuse .guarded) := by
  simp [State.eraseCommand, hk, h, hg]

theorem State.eraseCommand_begins (hk : slotArg slot = some k) (h : s.storeBusy = false)
    (hg : (s.slot k).guarded = false) : s.eraseCommand slot = s.beginStore .erase k (Table.fill 64 0) := by
  simp [State.eraseCommand, hk, h, hg]

/-- The beginning of a store or erase touches no link. -/
theorem State.beginStore_apart (op : StoreOp) (k : SlotNo) (img : Table Byte 64) (t : State) (loc centre : LinkCtx) :
    (({ t with loc := loc, centre := centre } : State).beginStore op k img).1 =
      { (t.beginStore op k img).1 with loc := loc, centre := centre } := rfl

theorem State.readSlot_empty (h : (s.slot k).state = .empty) : s.readSlot k = (s, .error .absent) := by
  simp only [State.readSlot, h]

theorem State.readSlot_damaged (h : (s.slot k).state = .damaged) : s.readSlot k = (s, .error .damaged) := by
  simp only [State.readSlot, h]

theorem State.readSlot_agrees (h : (s.slot k).state = .valid) (ha : (s.slot k).agrees = true) :
    s.readSlot k = (s, .ok (s.slot k).image) := by
  simp only [State.readSlot, h, if_pos ha]

/-- A VALID slot whose check value disagrees becomes DAMAGED in the event of the read (R157). -/
theorem State.readSlot_disagrees (h : (s.slot k).state = .valid) (ha : (s.slot k).agrees = false) :
    s.readSlot k = (s.setSlot k { s.slot k with state := .damaged }, .error .damaged) := by
  simp [State.readSlot, h, ha]

theorem State.fetch_range (h : slotArg slot = none) : s.fetch slot = (s, .refuse .range) := by
  simp only [State.fetch, h]

theorem State.fetch_busy (hk : slotArg slot = some k) (h : s.storeBusy = true) : s.fetch slot = (s, .refuse .busy) := by
  simp only [State.fetch, hk, if_pos h]

theorem State.fetch_error {t : State} {st : Status} (hk : slotArg slot = some k) (h : s.storeBusy = false)
    (read : s.readSlot k = (t, .error st)) : s.fetch slot = (t, .refuse st) := by
  simp [State.fetch, hk, h, read]

theorem State.fetch_ok {t : State} {img : Table Byte 64} (hk : slotArg slot = some k) (h : s.storeBusy = false)
    (read : s.readSlot k = (t, .ok img)) :
    s.fetch slot = ({ t with stage := fullStage (Table.build 4 (sectionBytes img)) }, .done) := by
  simp [State.fetch, hk, h, read]

end

/-! ### The slot commands -/

theorem exec_storeSlot (l : Link) (slot : Byte) (s : State) :
    exec (.storeSlot l slot) s = .next (s.frame l 0x43 fun t => t.storeCommand slot) := rfl

theorem exec_eraseSlot (l : Link) (slot : Byte) (s : State) :
    exec (.eraseSlot l slot) s = .next (s.frame l 0x45 fun t => t.eraseCommand slot) := rfl

theorem exec_fetchSlot (l : Link) (slot : Byte) (s : State) :
    exec (.fetchSlot l slot) s = .next (s.frame l 0x44 fun t => t.fetch slot) := rfl

section
variable {s : State} {l : Link} {slot : Byte} {k : SlotNo}

/-- STORE in a protected slot is refused with GUARDED, the stage being full (R158, R160). -/
theorem storeSlot_guarded {img : Table Byte 64} (ht : s.takes l) (hk : slotArg slot = some k) (free : s.storeBusy = false)
    (full : stageImage s.stage = some img) (hg : (s.slot k).guarded = true) :
    ∃ t, exec (.storeSlot l slot) s = .next t ∧ Refused s t l 0x43 .guarded :=
  ⟨_, exec_storeSlot l slot s,
    State.frame_refused ht (State.storeCommand_guarded hk (by simpa using free) (by simpa using full) (by simpa using hg))⟩

/-- ERASE of a protected slot is refused with GUARDED (R158, R160). -/
theorem eraseSlot_guarded (ht : s.takes l) (hk : slotArg slot = some k) (free : s.storeBusy = false)
    (hg : (s.slot k).guarded = true) : ∃ t, exec (.eraseSlot l slot) s = .next t ∧ Refused s t l 0x45 .guarded :=
  ⟨_, exec_eraseSlot l slot s, State.frame_refused ht (State.eraseCommand_guarded hk (by simpa using free) (by simpa using hg))⟩

/-- FETCH of a slot that gives its image: the stage is that image (R156, R157). -/
theorem fetchSlot_read (ht : s.takes l) (hk : slotArg slot = some k) (free : s.storeBusy = false)
    (valid : (s.slot k).state = .valid) (agrees : (s.slot k).agrees = true) :
    ∃ t, exec (.fetchSlot l slot) s = .next t ∧
      t = { s with stage := t.stage, loc := t.loc, centre := t.centre } ∧
      stageImage t.stage = some (s.slot k).image ∧ Answered s t l 0x44 .done [] ∧ NoNotice s t l := by
  have read : (s.goodFrame l).readSlot k = (s.goodFrame l, .ok (s.slot k).image) := by
    rw [State.readSlot_agrees (by simpa using valid) (by simpa using agrees), State.goodFrame_slot]
  obtain ⟨form, answered, quiet⟩ := State.frame_edited (code := 0x44) (run := fun t => t.fetch slot) (r := .done)
    (edit := fun t => { t with stage := fullStage (Table.build 4 (sectionBytes (s.slot k).image)) }) ht
    (State.fetch_ok hk (by simpa using free) read) fun _ _ _ => rfl
  have stage := congrArg State.stage form
  refine ⟨_, exec_fetchSlot l slot s, ?_, ?_, answered, quiet⟩
  · rw [stage]
    exact form
  · rw [stage]
    exact stageImage_fullStage _

/-- FETCH of a VALID slot whose check value disagrees: the slot becomes DAMAGED, and that is the answer (R157). -/
theorem fetchSlot_disagrees (ht : s.takes l) (hk : slotArg slot = some k) (free : s.storeBusy = false)
    (valid : (s.slot k).state = .valid) (agrees : (s.slot k).agrees = false) :
    ∃ t, exec (.fetchSlot l slot) s = .next t ∧
      t = { s with
        slots := s.slots.set k { s.slot k with state := .damaged }, loc := t.loc, centre := t.centre } ∧
      Answered s t l 0x44 .damaged [] := by
  obtain ⟨form, answered, -⟩ := State.frame_edited (code := 0x44) (run := fun t => t.fetch slot) (r := .refuse .damaged)
    (edit := fun t => t.setSlot k { t.slot k with state := .damaged }) ht
    (State.fetch_error hk (by simpa using free) (State.readSlot_disagrees (by simpa using valid) (by simpa using agrees)))
    fun _ _ _ => rfl
  exact ⟨_, exec_fetchSlot l slot s, form, answered⟩

end

/-- Settles O46: the range refusals first, then each block by the busy mark, the stage and the slot. -/
theorem slotCommandsTaken : Obligations.SlotCommandsTaken := by
  refine ⟨fun s l slot ht out => ?_, fun s l slot k ht hk => ⟨fun store scan => ?_, fun busy => ?_⟩⟩
  · have bad := slotArg_none out
    exact ⟨⟨_, exec_storeSlot l slot s, State.frame_refused ht (State.storeCommand_range bad)⟩,
      ⟨_, exec_eraseSlot l slot s, State.frame_refused ht (State.eraseCommand_range bad)⟩,
      ⟨_, exec_fetchSlot l slot s, State.frame_refused ht (State.fetch_range bad)⟩⟩
  · have free := State.storeBusy_free store scan
    have free' : (s.goodFrame l).storeBusy = false := (s.storeBusy_goodFrame l).trans free
    refine ⟨fun gaps => ⟨_, exec_storeSlot l slot s, ?_⟩,
      fun img full => ⟨storeSlot_guarded ht hk free full, fun hg => ⟨_, exec_storeSlot l slot s, ?_⟩⟩,
      eraseSlot_guarded ht hk free, fun hg => ⟨_, exec_eraseSlot l slot s, ?_⟩,
      fun empty => ⟨_, exec_fetchSlot l slot s, ?_⟩, fun damaged => ⟨_, exec_fetchSlot l slot s, ?_⟩,
      fetchSlot_read ht hk free, fetchSlot_disagrees ht hk free⟩
    · exact State.frame_refused ht (State.storeCommand_incomplete hk free' (by simpa using gaps))
    · exact State.frame_edited (edit := fun t => (t.beginStore .store k img).1) (r := ⟨.accepted, []⟩) ht
        (State.storeCommand_begins hk free' (by simpa using full) (by simpa using hg)) (State.beginStore_apart .store k img)
    · exact State.frame_edited (edit := fun t => (t.beginStore .erase k (Table.fill 64 0)).1) (r := ⟨.accepted, []⟩) ht
        (State.eraseCommand_begins hk free' (by simpa using hg)) (State.beginStore_apart .erase k _)
    · exact State.frame_refused ht (State.fetch_error hk free' (State.readSlot_empty (by simpa using empty)))
    · exact State.frame_refused ht (State.fetch_error hk free' (State.readSlot_damaged (by simpa using damaged)))
  · have busy' : (s.goodFrame l).storeBusy = true := (s.storeBusy_goodFrame l).trans (s.storeBusy_iff.2 busy)
    exact ⟨⟨_, exec_storeSlot l slot s, State.frame_refused ht (State.storeCommand_busy hk busy')⟩,
      ⟨_, exec_eraseSlot l slot s, State.frame_refused ht (State.eraseCommand_busy hk busy')⟩,
      ⟨_, exec_fetchSlot l slot s, State.frame_refused ht (State.fetch_busy hk busy')⟩⟩

end Sys2Proof.Machine
end

section
/-! STORE COMPLETION (R158, R159), and PROTECT and UNPROTECT with what the protected mark guards (R160). -/

namespace Sys2Proof.Machine

/-! ### STORE COMPLETION (R158, R159) -/

/-- What a completion leaves but for a scan that waited: the slot written, store-busy none, the STORE notice raised. -/
def State.storeEnded (s : State) (b : StoreBusy) (good : Bool) : State :=
  ({ s.setSlot b.slot ((s.slot b.slot).completed b good) with store := none } : State).raise .store b.slot.val
    (b.detail good) false

theorem State.completeStore_waiting {s : State} (h : s.scan = .afterStore) (b : StoreBusy) (good : Bool) :
    s.completeStore b good = (s.storeEnded b good).beginScan := by
  simp only [State.completeStore, h]
  rfl

theorem State.completeStore_plain {s : State} (h : s.scan ≠ .afterStore) (b : StoreBusy) (good : Bool) :
    s.completeStore b good = s.storeEnded b good := by
  unfold State.completeStore
  split
  · next waiting => exact absurd waiting h
  · rfl
  · rfl

/-- Beside the scan and its report, a completion is what `storeEnded` says. -/
theorem State.completeStore_form (s : State) (b : StoreBusy) (good : Bool) : s.completeStore b good =
    { s.storeEnded b good with scan := (s.completeStore b good).scan, report := (s.completeStore b good).report } := by
  by_cases waiting : s.scan = .afterStore
  · rw [State.completeStore_waiting waiting]
    rfl
  · rw [State.completeStore_plain waiting]

theorem State.slot_completeStore (s : State) (b : StoreBusy) (good : Bool) (j : SlotNo) :
    (s.completeStore b good).slot j = if j = b.slot then (s.slot b.slot).completed b good else s.slot j := by
  rw [State.completeStore_form]
  exact s.slot_setSlot b.slot j _

theorem State.link_completeStore (s : State) (b : StoreBusy) (good : Bool) (l : Link) :
    (s.completeStore b good).link l = (s.storeEnded b good).link l := by
  rw [State.completeStore_form]
  cases l <;> rfl

theorem Slot.completed_guarded (sl : Slot) (b : StoreBusy) (good : Bool) : (sl.completed b good).guarded = sl.guarded := by
  unfold Slot.completed
  split
  · split <;> rfl
  · rfl

theorem StoreBusy.detail_eq (b : StoreBusy) (good : Bool) :
    b.detail good = .store b.op good (if b.op = .store then some (b.image.get 0) else none) := by
  unfold StoreBusy.detail
  cases b.op <;> rfl

theorem exec_storeCompletion {s : State} {b : StoreBusy} (h : s.resetHeld = false) (hb : s.store = some b) (good : Bool) :
    exec (.storeCompletion good) s = .next (s.completeStore b good) := by
  refine congrArg Host.Outcome.next ((State.running_up h).trans ?_)
  simp only [hb]

/-- Settles O47: the slot by the outcome, the notice, and the scan by whether it waited. -/
theorem storeCompletes : Obligations.StoreCompletes := by
  intro s b good up hb
  have form := s.completeStore_form b good
  have own : (s.completeStore b good).slot b.slot = (s.slot b.slot).completed b good :=
    (s.slot_completeStore b good b.slot).trans (if_pos rfl)
  refine ⟨_, exec_storeCompletion up hb good, congrArg State.store form, fun done hop => ?_, fun done hop => ?_,
    fun failed => ?_, ?_, fun j ne => (s.slot_completeStore b good j).trans (if_neg ne), ?_, fun waiting => ?_,
    fun plain => ?_, (congrArg State.stage form).trans rfl, (congrArg State.ramps form).trans rfl,
    (congrArg State.heads form).trans rfl, (congrArg State.chans form).trans rfl, (congrArg State.zones form).trans rfl, ?_⟩
  · rw [own]
    simp [Slot.completed, done, hop]
  · rw [own]
    simp [Slot.completed, done, hop]
  · rw [own]
    simp [Slot.completed, failed]
  · rw [own, Slot.completed_guarded]
  · rw [← b.detail_eq good]
    exact (raised_raise _ _ _ _ _).of_sets fun l => congrArg LinkCtx.set (s.link_completeStore b good l)
  · rw [State.completeStore_waiting waiting]
    exact ⟨rfl, fun _ => Table.get_fill _ _⟩
  · rw [State.completeStore_plain plain]
    exact ⟨rfl, rfl⟩
  · intro l
    rw [s.link_completeStore b good l]
    exact (SetsOnly.of_links fun k => by cases k <;> rfl).trans (State.raise_setsOnly _ _ _ _ _) l

/-! ### PROTECT and UNPROTECT (R160) -/

section
variable {s : State} {slot : Byte} {k : SlotNo}

theorem State.guardBusy_iff (s : State) (k : SlotNo) :
    s.guardBusy k = true ↔ (∃ b, s.store = some b ∧ b.slot = k) ∨ s.scan.running = true := by
  unfold State.guardBusy State.slotInFlight
  cases s.store <;> simp

theorem State.guardBusy_free (store : ∀ b, s.store = some b → b.slot ≠ k) (scan : s.scan.running = false) :
    s.guardBusy k = false := by
  refine Bool.eq_false_iff.2 fun busy => ?_
  obtain ⟨b, hb, hk⟩ | running := (s.guardBusy_iff k).1 busy
  · exact store b hb hk
  · simp [scan] at running

theorem State.protect_range (h : slotArg slot = none) : s.protect slot = (s, .refuse .range) := by
  simp only [State.protect, h]

theorem State.protect_busy (hk : slotArg slot = some k) (h : s.guardBusy k = true) : s.protect slot = (s, .refuse .busy) := by
  simp only [State.protect, hk, if_pos h]

theorem State.protect_free (hk : slotArg slot = some k) (h : s.guardBusy k = false) :
    s.protect slot = (s.setSlot k { s.slot k with guarded := true }, .done) := by
  simp [State.protect, hk, h]

theorem State.unprotect_range (l : Link) (h : slotArg slot = none) : s.unprotect l slot = (s, .refuse .range) := by
  simp only [State.unprotect, h]

theorem State.unprotect_busy (l : Link) (hk : slotArg slot = some k) (h : s.guardBusy k = true) :
    s.unprotect l slot = (s, .refuse .busy) := by
  simp only [State.unprotect, hk, if_pos h]

theorem State.unprotect_takeover (hk : slotArg slot = some k) (h : s.guardBusy k = false) (takeover : s.takeover = true) :
    s.unprotect .loc slot = (s.setSlot k { s.slot k with guarded := false }, .done) := by
  simp [State.unprotect, hk, h, takeover]

/-- On the centre link, and while TAKEOVER is not asserted, the mark stands (R160). -/
theorem State.unprotect_guarded {l : Link} (hk : slotArg slot = some k) (h : s.guardBusy k = false)
    (bars : l = .centre ∨ s.takeover = false) : s.unprotect l slot = (s, .refuse .guarded) := by
  have not : ¬ (l = .loc ∧ s.takeover = true) := by
    rintro ⟨rfl, asserted⟩
    simp [asserted] at bars
  simp [State.unprotect, hk, h, not]

end

theorem exec_protectSlot (l : Link) (slot : Byte) (s : State) :
    exec (.protectSlot l slot) s = .next (s.frame l 0x46 fun t => t.protect slot) := rfl

theorem exec_unprotectSlot (l : Link) (slot : Byte) (s : State) :
    exec (.unprotectSlot l slot) s = .next (s.frame l 0x47 fun t => t.unprotect l slot) := rfl

/-- Settles O48: the two blocks by the busy mark and the TAKEOVER line, the refusals of STORE and ERASE, and the slots that both
resets keep. -/
theorem protectionTaken : Obligations.ProtectionTaken := by
  refine ⟨fun s l slot ht => ⟨fun out => ?_, fun k hk => ⟨fun store scan => ?_, fun busy => ?_, fun store scan hg => ?_⟩⟩,
    fun s up => ⟨_, exec_hardReset_up up, fun _ => rfl⟩, fun s up replying restart => ?_⟩
  · exact ⟨⟨_, exec_protectSlot l slot s, State.frame_refused ht (State.protect_range out)⟩,
      ⟨_, exec_unprotectSlot l slot s, State.frame_refused ht (State.unprotect_range l out)⟩⟩
  · have free : (s.goodFrame l).guardBusy k = false := (s.guardBusy_goodFrame l k).trans (State.guardBusy_free store scan)
    refine ⟨⟨_, exec_protectSlot l slot s, ?_⟩, fun isLocal takeover => ⟨_, exec_unprotectSlot l slot s, ?_⟩,
      fun bars => ⟨_, exec_unprotectSlot l slot s, ?_⟩⟩
    · exact State.frame_edited (edit := fun t => t.setSlot k { t.slot k with guarded := true }) (r := .done) ht
        (State.protect_free hk free) fun _ _ _ => rfl
    · subst isLocal
      exact State.frame_edited (edit := fun t => t.setSlot k { t.slot k with guarded := false }) (r := .done) ht
        (State.unprotect_takeover hk free (by simpa using takeover)) fun _ _ _ => rfl
    · exact State.frame_refused ht (State.unprotect_guarded hk free (by simpa using bars))
  · have busy' : (s.goodFrame l).guardBusy k = true := (s.guardBusy_goodFrame l k).trans ((s.guardBusy_iff k).2 busy)
    exact ⟨⟨_, exec_protectSlot l slot s, State.frame_refused ht (State.protect_busy hk busy')⟩,
      ⟨_, exec_unprotectSlot l slot s, State.frame_refused ht (State.unprotect_busy l hk busy')⟩⟩
  · have free := State.storeBusy_free store scan
    exact ⟨fun img full => storeSlot_guarded ht hk free full hg, eraseSlot_guarded ht hk free hg⟩
  · refine ⟨s.restart, exec_responseSent_restart up replying restart, fun k => ?_⟩
    have slots : s.restart.slots = s.slots := s.restart_onlyLinks.slots
    rw [State.slot, slots]
    rfl

end Sys2Proof.Machine
end

section
/-! The queue of the commands that wait through every operation, command and event; and that every row, and so every step, answers a
next state. -/

namespace Sys2Proof.Machine

theorem RampOnly.pending {n : RampNo} {s t : State} (h : RampOnly n s t) : t.pending = s.pending := h.1.pending

theorem RefsOnly.pending {n : RampNo} {s t : State} (h : RefsOnly n s t) : t.pending = s.pending := h.1.pending

section
variable (s : State)

/-! ### The operations on a ramp and its lanes -/

@[simp] theorem State.pending_tryFlushExit (n : RampNo) : (s.tryFlushExit n).pending = s.pending :=
  (s.tryFlushExit_rampOnly n).pending

@[simp] theorem State.pending_tryRelease (n : RampNo) : (s.tryRelease n).pending = s.pending :=
  (s.tryRelease_rampOnly n).pending

@[simp] theorem State.pending_laneBecomesReady (n : RampNo) (k : LaneNo) : (s.laneBecomesReady n k).pending = s.pending :=
  (s.laneBecomesReady_rampOnly n k).pending

@[simp] theorem State.pending_endGreens (n : RampNo) (k : LaneNo) : (s.endGreens n k).pending = s.pending :=
  (s.endGreens_rampOnly n k).pending

@[simp] theorem State.pending_reportEmpty (n : RampNo) : (s.reportEmpty n).pending = s.pending :=
  (s.reportEmpty_rampOnly n).pending

@[simp] theorem State.pending_takeEmpty (n : RampNo) : (s.takeEmpty n).pending = s.pending :=
  (s.takeEmpty_rampOnly n).pending

@[simp] theorem State.pending_leaveRunning (n : RampNo) : (s.leaveRunning n).pending = s.pending :=
  (s.leaveRunning_rampOnly n).pending

@[simp] theorem State.pending_park (n : RampNo) (stop : StopCause) (cause : RampCause) :
    (s.park n stop cause).pending = s.pending := (s.park_rampOnly n stop cause).pending

@[simp] theorem State.pending_vacate (n : RampNo) (cause : RampCause) : (s.vacate n cause).pending = s.pending :=
  (s.vacate_refsOnly n cause).pending

@[simp] theorem State.pending_installNew (n : RampNo) (set : Settled) (stop : StopCause) :
    (s.installNew n set stop).pending = s.pending := (s.installNew_refsOnly n set stop).pending

@[simp] theorem State.pending_replacePlan (n : RampNo) (old : Plan) (set : Settled) :
    (s.replacePlan n old set).pending = s.pending := (s.replacePlan_refsOnly n old set).pending

@[simp] theorem State.pending_enterStartRed (n : RampNo) (p : Plan) : (s.enterStartRed n p).pending = s.pending :=
  (s.enterStartRed_rampOnly n p).pending

@[simp] theorem State.pending_enterOpening (n : RampNo) (p : Plan) : (s.enterOpening n p).pending = s.pending :=
  (s.enterOpening_rampOnly n p).pending

@[simp] theorem State.pending_enterMetering (n : RampNo) (p : Plan) : (s.enterMetering n p).pending = s.pending :=
  (s.enterMetering_rampOnly n p).pending

@[simp] theorem State.pending_takeAlarm (n : RampNo) (p : Plan) : (s.takeAlarm n p).pending = s.pending :=
  (s.takeAlarm_rampOnly n p).pending

@[simp] theorem State.pending_enterClosing (n : RampNo) (retire : Bool) (cause : RampCause) :
    (s.enterClosing n retire cause).pending = s.pending := (s.enterClosing_refsOnly n retire cause).pending

@[simp] theorem State.pending_trySettle (n : RampNo) : (s.trySettle n).pending = s.pending :=
  (s.trySettle_refsOnly n).pending

@[simp] theorem State.pending_endClosing (n : RampNo) : (s.endClosing n).pending = s.pending :=
  (s.endClosing_refsOnly n).pending

@[simp] theorem State.pending_endWarn (n : RampNo) : (s.endWarn n).pending = s.pending := by
  unfold State.endWarn
  split <;> simp

@[simp] theorem State.pending_endStartRed (n : RampNo) : (s.endStartRed n).pending = s.pending := by
  unfold State.endStartRed
  split <;> simp

@[simp] theorem State.pending_takeDwell (n : RampNo) : (s.takeDwell n).pending = s.pending := by
  unfold State.takeDwell
  split
  · rfl
  · split
    · split <;> simp
    · simp

/-! ### Presences, declarations and the window close (R44 to R53, R119) -/

@[simp] theorem State.pending_tryQualify (c : Chan) : (s.tryQualify c).pending = s.pending :=
  (s.tryQualify_channelsOnly c).pending

@[simp] theorem State.pending_tryStuck (c : Chan) : (s.tryStuck c).pending = s.pending :=
  (s.tryStuck_channelsOnly c).pending

@[simp] theorem State.pending_presenceOnset (c : Chan) : (s.presenceOnset c).pending = s.pending := by
  unfold State.presenceOnset
  split
  · rfl
  · split <;> simp

@[simp] theorem State.pending_finishPresence (c : Chan) : (s.finishPresence c).pending = s.pending := by
  unfold State.finishPresence
  split
  · exact (State.reportOff_rampsOnly _ c _).pending
  · split <;> simp

@[simp] theorem State.pending_presenceEnd (c : Chan) : (s.presenceEnd c).pending = s.pending := by
  unfold State.presenceEnd
  split
  · rfl
  · split <;> simp

@[simp] theorem State.pending_provingInputs (h : HeadNo) (red green : Bool) :
    (s.provingInputs h red green).pending = s.pending := by
  unfold State.provingInputs
  simp only []
  split <;> simp

@[simp] theorem State.pending_tryDeclare (h : HeadNo) : (s.tryDeclare h).pending = s.pending :=
  (s.tryDeclare_rampOnly h).pending

@[simp] theorem State.pending_takeSummary (sum : Summary) : (s.takeSummary sum).pending = s.pending := by
  have evaluated := s.evaluateZones_zonesOnly sum
  unfold State.takeSummary
  generalize s.evaluateZones sum = out at evaluated
  exact evaluated.pending

@[simp] theorem State.pending_publish (w : Nat) : (s.publish w).pending = s.pending := by
  unfold State.publish
  rw [State.pending_takeSummary]
  exact (s.detectorNotices_onlyLinks _ _).1.pending

@[simp] theorem State.pending_finishReadings : s.finishReadings.pending = s.pending := s.finishReadings_effect.1.pending

@[simp] theorem State.pending_startWindow : s.startWindow.pending = s.pending := rfl

@[simp] theorem State.pending_afterStart (old : Table Channel 64) (fresh : Bool) :
    (s.afterStart old fresh).pending = s.pending := (s.afterStart_effect old fresh).1.pending

@[simp] theorem State.pending_closeWindow (w : Nat) : (s.closeWindow w).pending = s.pending := by
  unfold State.closeWindow
  simp

@[simp] theorem State.pending_takeBulletin (sum : Summary) (b : Bulletin) : (s.takeBulletin sum b).pending = s.pending :=
  (State.eachRamp_rest (fun n t => t.bulletinAt_rampOnly sum b n) s).1.pending

/-! ### Zones and settings (R81, R85, R133) -/

@[simp] theorem State.pending_defineZone (z : ZoneNo) (rec : Zone) : (s.defineZone z rec).pending = s.pending := by
  obtain ⟨-, -, -, -, -, rest, -⟩ := s.defineZone_effect z rec
  exact rest.pending

@[simp] theorem State.pending_dissolveZone (z : ZoneNo) : (s.dissolveZone z).pending = s.pending := by
  obtain ⟨-, -, -, -, -, rest, -⟩ := s.dissolveZone_effect z
  exact rest.pending

@[simp] theorem State.pending_tryLapse (l : Link) : (s.tryLapse l).pending = s.pending := by
  unfold State.tryLapse
  split
  · exact (s.lapse_rest l).pending
  · rfl

@[simp] theorem State.pending_installTimes (loc centre : Nat) : (s.installTimes loc centre).pending = s.pending := by
  simp [State.installTimes]

/-! ### The plan store (R156 to R161) -/

@[simp] theorem State.pending_readSlot (k : SlotNo) : (s.readSlot k).1.pending = s.pending := by
  unfold State.readSlot
  split
  · rfl
  · rfl
  · split <;> rfl

@[simp] theorem State.pending_planSource (source slot : Byte) : (s.planSource source slot).1.pending = s.pending := by
  unfold State.planSource
  split
  · split <;> rfl
  · split
    · split
      · rfl
      · split <;> simp
    · rfl

@[simp] theorem State.pending_restoreRamp (n : RampNo) (set : Settled) : (s.restoreRamp n set).1.pending = s.pending := by
  unfold State.restoreRamp
  simp only []
  split <;> simp

@[simp] theorem State.pending_scanImage (img : Table Byte 64) : (s.scanImage img).1.pending = s.pending := by
  unfold State.scanImage
  split
  · rfl
  · split
    · rfl
    · split
      · rfl
      · split <;> simp

@[simp] theorem State.pending_scanSlot (k : SlotNo) : (s.scanSlot k).1.pending = s.pending := by
  have read := s.pending_readSlot k
  unfold State.scanSlot
  split
  · next e => rwa [e] at read
  · next e =>
    rw [e] at read
    exact (State.pending_scanImage _ _).trans read

@[simp] theorem State.pending_scanStep (k : SlotNo) : (s.scanStep k).pending = s.pending := by
  unfold State.scanStep
  simp only []
  split <;> simp

@[simp] theorem State.pending_completeStore (b : StoreBusy) (good : Bool) : (s.completeStore b good).pending = s.pending :=
  (congrArg State.pending (s.completeStore_form b good)).trans rfl

/-! ### PERMIT, the resets and the links (R37, R135 to R138, R146, R147) -/

@[simp] theorem State.pending_losePermit : s.losePermit.pending = s.pending := by
  rw [State.losePermit_eq, State.raise_pending]
  unfold State.allStopped
  exact State.eachRamp_induct (P := fun t => t.pending = s.pending)
    (fun n t kept => (t.permitStops_refsOnly n).pending.trans kept) rfl

@[simp] theorem State.pending_release : s.release.pending = s.pending := s.release_onlyLinks.pending

@[simp] theorem State.pending_restart : s.restart.pending = s.pending := s.restart_onlyLinks.pending

@[simp] theorem State.pending_responseSent (l : Link) : (s.responseSent l).pending = s.pending := by
  unfold State.responseSent
  split
  · rfl
  · split <;> simp

@[simp] theorem State.pending_failCheck (l : Link) (code : Byte) : (s.failCheck l code).pending = s.pending := by
  unfold State.failCheck
  split <;> simp

@[simp] theorem State.pending_modSet (l : Link) (f : List Notice → List Notice) : (s.modSet l f).pending = s.pending :=
  (s.modSet_onlyLinks l f).pending

/-! ### Blocks of the commands -/

theorem State.pending_withPlan {n : RampNo} {source slot : Byte} {f : State → Settled → State}
    (kept : ∀ t set, (f t set).pending = t.pending) : (s.withPlan n source slot f).1.pending = s.pending := by
  have read := s.pending_planSource source slot
  unfold State.withPlan
  split
  · next e => rwa [e] at read
  · next e =>
    rw [e] at read
    split
    · exact read
    · exact (kept _ _).trans read

theorem State.pending_onRamp {ramp : Byte} {f : RampNo → State × Reply} (kept : ∀ n, (f n).1.pending = s.pending) :
    (s.onRamp ramp f).1.pending = s.pending :=
  State.onRamp_keeps (P := fun t => t.pending = s.pending) rfl kept

theorem State.pending_onPlan {ramp : Byte} {f : RampNo → Plan → State × Reply}
    (kept : ∀ n p, (f n p).1.pending = s.pending) : (s.onPlan ramp f).1.pending = s.pending :=
  State.onPlan_keeps (P := fun t => t.pending = s.pending) rfl kept

theorem State.pending_commission (ramp source slot : Byte) : (s.commission ramp source slot).1.pending = s.pending := by
  refine s.pending_onRamp fun n => ?_
  split
  · rfl
  · exact s.pending_withPlan fun t set => by simp

theorem State.pending_replace (l : Link) (ramp source slot : Byte) :
    (s.replace l ramp source slot).1.pending = s.pending := by
  refine s.pending_onPlan fun n p => ?_
  split
  · rfl
  · split
    · rfl
    · exact s.pending_withPlan fun t set => by simp

theorem State.pending_amend (l : Link) (ramp : Byte) (control : Table Byte 16) (target : Byte) :
    (s.amend l ramp control target).1.pending = s.pending := by
  refine s.pending_onPlan fun n p => ?_
  split
  · rfl
  · split <;> rfl

theorem State.pending_retire (l : Link) (ramp : Byte) : (s.retire l ramp).1.pending = s.pending := by
  refine s.pending_onPlan fun n p => ?_
  split
  · rfl
  · cases (s.ramp n).state <;> simp

theorem State.pending_openCommand (l : Link) (ramp : Byte) : (s.openCommand l ramp).1.pending = s.pending := by
  refine s.pending_onPlan fun n p => ?_
  cases (s.ramp n).state with
  | vacant | closing | lockout => rfl
  | opening | metering | flushing => simp only []; split <;> rfl
  | parked =>
    simp only []
    split
    · rfl
    · split <;> simp

theorem State.pending_closeCommand (l : Link) (ramp : Byte) : (s.closeCommand l ramp).1.pending = s.pending := by
  refine s.pending_onPlan fun n p => ?_
  split
  · rfl
  · split
    · rfl
    · cases (s.ramp n).state <;> simp

theorem State.pending_clearLockout (l : Link) (ramp : Byte) : (s.clearLockout l ramp).1.pending = s.pending := by
  refine s.pending_onPlan fun n p => ?_
  split
  · rfl
  · split
    · rfl
    · split
      · rfl
      · split <;> simp

theorem State.pending_overrideCommand (l : Link) (ramp : Byte) (rate duration : Word) :
    (s.overrideCommand l ramp rate duration).1.pending = s.pending := by
  refine s.pending_onPlan fun n p => ?_
  split
  · rfl
  · split <;> rfl

theorem State.pending_endOverride (l : Link) (ramp : Byte) : (s.endOverride l ramp).1.pending = s.pending := by
  refine s.pending_onPlan fun n p => ?_
  split <;> rfl

theorem State.pending_authorityOne (ramp : Byte) (f : Ramp → Ramp × AuthorityOutcome) :
    (s.authorityOne ramp f).1.pending = s.pending := by
  unfold State.authorityOne
  split
  · rfl
  · exact s.pending_onRamp fun n => rfl

theorem State.pending_lookup {α : Type} (index : Option α) (f : α → List Byte) : (s.lookup index f).1.pending = s.pending := by
  unfold State.lookup
  split <;> rfl

theorem State.pending_defineChecked (l : Link) (z : ZoneNo) (dets : List Chan) (oc gz rmax : Nat)
    (members : List (RampNo × Nat)) : (s.defineChecked l z dets oc gz rmax members).1.pending = s.pending := by
  unfold State.defineChecked
  repeat' split
  case isFalse.isFalse.isFalse.isFalse.isFalse => exact s.pending_defineZone z _
  all_goals rfl

theorem State.pending_zoneDefine (l : Link) (a : ZoneDefineArgs) : (s.zoneDefine l a).1.pending = s.pending := by
  unfold State.zoneDefine
  split
  · rfl
  · split
    · rfl
    · split
      · split
        · rfl
        · exact s.pending_defineChecked l _ _ _ _ _ _
      · rfl

theorem State.pending_amendChecked (l : Link) (z : ZoneNo) (oc gz rmax : ParamChange)
    (weights additions : List (RampNo × Nat)) :
    (s.amendChecked l z oc gz rmax weights additions).1.pending = s.pending := by
  unfold State.amendChecked
  repeat' split
  all_goals rfl

theorem State.pending_zoneAmend (l : Link) (a : ZoneAmendArgs) : (s.zoneAmend l a).1.pending = s.pending := by
  unfold State.zoneAmend
  simp only []
  split
  · rfl
  · split
    · rfl
    · split
      · rfl
      · split
        · split
          · rfl
          · exact s.pending_amendChecked l _ _ _ _ _ _
        · rfl

theorem State.pending_zoneDissolve (l : Link) (zone : Byte) : (s.zoneDissolve l zone).1.pending = s.pending := by
  unfold State.zoneDissolve
  split
  · rfl
  · split
    · rfl
    · split <;> simp

theorem State.pending_corridorSet (a : CorridorArgs) : (s.corridorSet a).1.pending = s.pending := by
  unfold State.corridorSet
  split <;> simp

theorem State.pending_stageWrite (sect : Byte) (bytes : Table Byte 16) : (s.stageWrite sect bytes).1.pending = s.pending := by
  unfold State.stageWrite
  split
  · rfl
  · split
    · rfl
    · split <;> rfl

theorem State.pending_stageClear : s.stageClear.1.pending = s.pending := by
  unfold State.stageClear
  split <;> rfl

theorem State.pending_stageFromRamp (ramp : Byte) : (s.stageFromRamp ramp).1.pending = s.pending := by
  unfold State.stageFromRamp
  split
  · rfl
  · split
    · rfl
    · split <;> rfl

theorem State.pending_fetch (slot : Byte) : (s.fetch slot).1.pending = s.pending := by
  unfold State.fetch
  split
  · rfl
  · split
    · rfl
    · next k _ _ =>
      have read := s.pending_readSlot k
      split <;> next e => rwa [e] at read

theorem State.pending_storeCommand (slot : Byte) : (s.storeCommand slot).1.pending = s.pending := by
  unfold State.storeCommand
  split
  · rfl
  · split
    · rfl
    · split
      · rfl
      · split <;> rfl

theorem State.pending_eraseCommand (slot : Byte) : (s.eraseCommand slot).1.pending = s.pending := by
  unfold State.eraseCommand
  split
  · rfl
  · split
    · rfl
    · split <;> rfl

theorem State.pending_protect (slot : Byte) : (s.protect slot).1.pending = s.pending := by
  unfold State.protect
  split
  · rfl
  · split <;> rfl

theorem State.pending_unprotect (l : Link) (slot : Byte) : (s.unprotect l slot).1.pending = s.pending := by
  unfold State.unprotect
  split
  · rfl
  · split
    · rfl
    · split <;> rfl

theorem State.pending_clearNotice (l : Link) (kind subject : Byte) : (s.clearNotice l kind subject).1.pending = s.pending := by
  unfold State.clearNotice
  split
  · rfl
  · split <;> simp

theorem State.pending_maskNotices (l : Link) (kinds : List Byte) : (s.maskNotices l kinds).1.pending = s.pending := by
  unfold State.maskNotices
  split
  · rfl
  · split <;> simp

/-! ### Commands -/

/-- A frame keeps the queue as its command's block does (R136 to R139). -/
theorem State.pending_frame {l : Link} {code : Byte} {run : State → State × Reply}
    (kept : ∀ t, (run t).1.pending = t.pending) : (s.frame l code run).pending = s.pending :=
  State.frame_keeps (P := fun t => t.pending = s.pending) (fun _ _ links h => links.pending.trans h)
    (fun t h => (kept t).trans h) rfl

theorem State.pending_running {f : State → State} (kept : (f s).pending = s.pending) : (s.running f).pending = s.pending := by
  unfold State.running
  split
  · rfl
  · exact kept

/-- A row that is taken when its condition holds. -/
theorem State.pending_when {p : State → Prop} [∀ t, Decidable (p t)] {f : State → State}
    (kept : (f s).pending = s.pending) : (s.running fun t => if p t then f t else t).pending = s.pending := by
  refine s.pending_running ?_
  split
  · exact kept
  · rfl

/-- Every command answers a next state and leaves the queue. -/
theorem runCommand_next (i : Instr) : ∃ t, runCommand i s = .next t ∧ t.pending = s.pending := by
  cases i
  case commission l r a b => exact ⟨_, rfl, s.pending_frame fun t => t.pending_commission r a b⟩
  case replacePlan l r a b => exact ⟨_, rfl, s.pending_frame fun t => t.pending_replace l r a b⟩
  case amend l r c v => exact ⟨_, rfl, s.pending_frame fun t => t.pending_amend l r c v⟩
  case retire l r => exact ⟨_, rfl, s.pending_frame fun t => t.pending_retire l r⟩
  case openRamp l r => exact ⟨_, rfl, s.pending_frame fun t => t.pending_openCommand l r⟩
  case closeRamp l r => exact ⟨_, rfl, s.pending_frame fun t => t.pending_closeCommand l r⟩
  case clearLockout l r => exact ⟨_, rfl, s.pending_frame fun t => t.pending_clearLockout l r⟩
  case overrideRate l r v d => exact ⟨_, rfl, s.pending_frame fun t => t.pending_overrideCommand l r v d⟩
  case endOverride l r => exact ⟨_, rfl, s.pending_frame fun t => t.pending_endOverride l r⟩
  case takeAuthority | yieldAuthority => exact ⟨_, rfl, s.pending_frame fun t => t.pending_authorityOne _ _⟩
  case takeAuthorityAll | yieldAuthorityAll => exact ⟨_, rfl, s.pending_frame fun t => rfl⟩
  case lookupRampStatus | lookupRampPlan | lookupChannel | lookupChannelSummary | lookupZone | lookupBulletinEntry |
      lookupSlotDirectory | lookupCorridorSettings | lookupLinkStatus | lookupRestoreReport =>
    exact ⟨_, rfl, s.pending_frame fun t => t.pending_lookup _ _⟩
  case zoneDefine l a => exact ⟨_, rfl, s.pending_frame fun t => t.pending_zoneDefine l a⟩
  case zoneAmend l a => exact ⟨_, rfl, s.pending_frame fun t => t.pending_zoneAmend l a⟩
  case zoneDissolve l z => exact ⟨_, rfl, s.pending_frame fun t => t.pending_zoneDissolve l z⟩
  case corridorSet l a => exact ⟨_, rfl, s.pending_frame fun t => t.pending_corridorSet a⟩
  case stageWrite l k b => exact ⟨_, rfl, s.pending_frame fun t => t.pending_stageWrite k b⟩
  case stageClear l x => exact ⟨_, rfl, s.pending_frame State.pending_stageClear⟩
  case stageFromRamp l r => exact ⟨_, rfl, s.pending_frame fun t => t.pending_stageFromRamp r⟩
  case storeSlot l x => exact ⟨_, rfl, s.pending_frame fun t => t.pending_storeCommand x⟩
  case fetchSlot l x => exact ⟨_, rfl, s.pending_frame fun t => t.pending_fetch x⟩
  case eraseSlot l x => exact ⟨_, rfl, s.pending_frame fun t => t.pending_eraseCommand x⟩
  case protectSlot l x => exact ⟨_, rfl, s.pending_frame fun t => t.pending_protect x⟩
  case unprotectSlot l x => exact ⟨_, rfl, s.pending_frame fun t => t.pending_unprotect l x⟩
  case noticeClear l k x =>
    refine ⟨_, rfl, s.pending_frame fun t => ?_⟩
    split
    · exact t.pending_modSet l _
    · exact t.pending_clearNotice l k x
  case noticeClearAll l x => exact ⟨_, rfl, s.pending_frame fun t => t.pending_modSet l _⟩
  case noticeMask l ks => exact ⟨_, rfl, s.pending_frame fun t => t.pending_maskNotices l ks⟩
  case restart l x =>
    refine ⟨_, rfl, s.pending_frame fun t => ?_⟩
    cases l <;> rfl
  case noticeQuery | unknownCommand => exact ⟨_, rfl, s.pending_frame fun _ => rfl⟩
  all_goals exact ⟨s, rfl, rfl⟩

theorem takePayload_next (l : Link) (payload : List Byte) :
    ∃ t, takePayload l payload s = .next t ∧ t.pending = s.pending := by
  unfold takePayload
  split
  · exact runCommand_next s _
  · exact ⟨_, rfl, s.pending_frame fun _ => rfl⟩
  · exact ⟨_, rfl, s.pending_frame fun _ => rfl⟩

theorem byteReceived_next (l : Link) (b : Byte) : ∃ t, execByteReceived l b s = .next t ∧ t.pending = s.pending := by
  unfold execByteReceived
  split
  · exact ⟨s, rfl, rfl⟩
  · split
    · exact ⟨_, rfl, State.setLink_pending _ _ _⟩
    · unfold completeFrame
      split
      · exact ⟨_, rfl, s.overrunFrame_pending l⟩
      · split
        · exact takePayload_next s l _
        · exact ⟨_, rfl, s.pending_failCheck l _⟩

/-! ### Every row and the step -/

theorem exec_command_next {i : Instr} (e : exec i s = runCommand i s) : ∃ t, exec i s = .next t ∧ t.pending = s.pending := by
  rw [e]
  exact runCommand_next s i

/-- Every row answers a next state and leaves the queue. -/
theorem exec_next (i : Instr) : ∃ t, exec i s = .next t ∧ t.pending = s.pending := by
  cases i
  case byteReceived l b => exact byteReceived_next s l b
  case hardReset =>
    refine ⟨_, rfl, ?_⟩
    split <;> rfl
  case resetRelease =>
    refine ⟨_, rfl, ?_⟩
    split
    · exact s.pending_release
    · rfl
  case takeoverAssert | takeoverWithdraw => exact ⟨_, rfl, rfl⟩
  case permitLoss =>
    refine ⟨_, rfl, ?_⟩
    split
    · rfl
    · split
      · exact s.pending_losePermit
      · rfl
  case permitReturn =>
    refine ⟨_, rfl, ?_⟩
    split
    · rfl
    · split <;> rfl
  case presenceOnset c => exact ⟨_, rfl, s.pending_presenceOnset c⟩
  case presenceEnd c => exact ⟨_, rfl, s.pending_presenceEnd c⟩
  case presenceQualified c => exact ⟨_, rfl, s.pending_running (s.pending_tryQualify c)⟩
  case stuckOn c => exact ⟨_, rfl, s.pending_running (s.pending_tryStuck c)⟩
  case provingInputChange g red green => exact ⟨_, rfl, s.pending_provingInputs g red green⟩
  case provingFaultDeclared g => exact ⟨_, rfl, s.pending_running (s.pending_tryDeclare g)⟩
  case flushHoldReached n => exact ⟨_, rfl, s.pending_running (s.pending_tryFlushExit n)⟩
  case settleComplete n => exact ⟨_, rfl, s.pending_running (s.pending_trySettle n)⟩
  case emptyJudgement n =>
    exact ⟨_, rfl, s.pending_running ((State.pending_takeEmpty _ n).trans (s.pending_reportEmpty n))⟩
  case supervisionLapse l => exact ⟨_, rfl, s.pending_running (s.pending_tryLapse l)⟩
  case responseSent l => exact ⟨_, rfl, s.pending_running (s.pending_responseSent l)⟩
  case frameCheckFailure l code => exact ⟨_, rfl, s.pending_running (s.pending_failCheck l code)⟩
  case frameOverrun l => exact ⟨_, rfl, s.pending_when (s.overrunFrame_pending l)⟩
  case receiveGapTimeout l =>
    exact ⟨_, rfl, s.pending_when (f := fun t => t.setLink l (t.link l).drop) (s.setLink_pending l _)⟩
  case windowTimerExpiry => exact ⟨_, rfl, s.pending_when (s.pending_closeWindow _)⟩
  case syncEdge => exact ⟨_, rfl, s.pending_when (s.pending_closeWindow _)⟩
  case windowSelfClose =>
    exact ⟨_, rfl, s.pending_when ((State.raise_pending _ _ _ _ _).trans (s.pending_closeWindow _))⟩
  case bulletinArrival =>
    refine ⟨_, rfl, s.pending_running ?_⟩
    split
    · rfl
    · exact State.pending_takeBulletin _ _ _
  case warnTimerExpiry n => exact ⟨_, rfl, s.pending_when (s.pending_endWarn n)⟩
  case startRedExpiry n => exact ⟨_, rfl, s.pending_when (s.pending_endStartRed n)⟩
  case queueAlarm n => exact ⟨_, rfl, s.pending_when (s.pending_takeDwell n)⟩
  case laneReady n k => exact ⟨_, rfl, s.pending_when (s.pending_laneBecomesReady n k)⟩
  case spacingExpiry n k => exact ⟨_, rfl, s.pending_when (s.pending_tryRelease n)⟩
  case greenEnd n k => exact ⟨_, rfl, s.pending_when (s.pending_endGreens n k)⟩
  case closeGreenEnd n => exact ⟨_, rfl, s.pending_when (s.pending_endClosing n)⟩
  case overrideExpiry n => exact ⟨_, rfl, s.pending_when rfl⟩
  case restoreScanSlot =>
    refine ⟨_, rfl, s.pending_running ?_⟩
    split
    · exact s.pending_scanStep _
    · rfl
    · rfl
  case storeCompletion good =>
    refine ⟨_, rfl, s.pending_running ?_⟩
    split
    · exact s.pending_completeStore _ good
    · rfl
  all_goals exact exec_command_next s rfl

end

/-- Settles O4: the row's own next state has the queue as it was. -/
theorem queueUntouched : Obligations.QueueUntouched := by
  intro c s t row
  obtain ⟨u, next, kept⟩ := exec_next s c
  obtain rfl : u = t := Host.Outcome.next.inj (next.symm.trans row)
  exact kept

theorem exec_answers (i : Instr) (s : State) : ∃ t, exec i s = .next t :=
  (exec_next s i).imp fun _ answer => answer.1

theorem idle_answers (s : State) : ∃ t, idle s = .next t := by
  unfold idle
  split
  · exact ⟨s, rfl⟩
  · split
    · exact ⟨_, rfl⟩
    · exact exec_answers _ _
    · exact exec_answers _ _

/-- Settles O5: the command at the front answers a next state, and so does what is taken when none waits. -/
theorem neverStops : Obligations.NeverStops := by
  intro s
  unfold step
  split
  · exact exec_answers _ _
  · exact idle_answers s

end Sys2Proof.Machine
end
